-- ==== Sys2Proof/Word.lean ====
section
/-! DEFINITION. The two word types of PRQ: the byte of every artefact and channel, and the 32-bit command and
register word (rules R14, R16 of 00_scope.md, R90 of 30_encoding.md). -/

namespace Sys2Proof

/-- A byte: an unsigned integer 0 to 255 (R16). -/
abbrev Byte := BitVec 8

/-- A command word or a host register value: 32 bits (R29, R90). -/
abbrev Word := BitVec 32

end Sys2Proof
end

