-- ==== Sys2Proof/Config.lean ====
section
/-! DEFINITION. What is fixed for a unit: the constants of rules R8 and R13 (00_scope.md), the configuration
PAL, HWB, NAME (R9, R11, R12, R31 to R33), and the values the spec leaves open. -/

namespace Sys2Proof

/-- One colour of the palette, or the colour operand of a command: three 8-bit channels (R9). -/
structure Rgb where
  r : Byte
  g : Byte
  b : Byte
deriving DecidableEq, Repr, Inhabited

/-- The configuration of a unit (R31 to R33): fixed for its whole life, read by commands, written by nothing. -/
structure Config where
  /-- `PAL`: the ordered table of 16 triples (R9, R31). -/
  pal : Vector Rgb 16
  /-- `HWB`: the parallel table of 16 hardware bytes (R11, R32). -/
  hwb : Vector Byte 16
  /-- `NAME`: the naming scheme's ASCII bytes (R12, R33). -/
  name : List Byte
deriving DecidableEq, Repr, Inhabited

/-- `PAL[i]` (R120). -/
def Config.palAt (c : Config) (i : BitVec 4) : Rgb := c.pal[i.toNat]'i.isLt

/-- `HWB[i]` (R120). -/
def Config.hwbAt (c : Config) (i : BitVec 4) : Byte := c.hwb[i.toNat]'i.isLt

/-- The parameters behind `Config.board` (WellFormed.lean), the configuration of the unit that `State.reset` describes.
OPEN: the spec leaves PAL's other thirteen triples, HWB and NAME as parameters (U6 to U8), so this constant has no value
any proof can see (log 1). -/
opaque Config.boardParameters : Config

/-- The raw contents of the raster memory after the n-th RESET action. Unspecified by R44 and U1 ("any value"): a free
value (log 3). -/
opaque Config.rasterAfterReset : Nat → List (Nat × BitVec 8)

/-- `(0,0,0)`, the value of `PAL[0]` and `PAL[8]` (R9). -/
def black : Rgb := ⟨0, 0, 0⟩

/-- `(255,255,255)`, the value of `PAL[15]` (R9). -/
def white : Rgb := ⟨255, 255, 255⟩

/-- `TILE_W = TILE_H` (R8). -/
abbrev tileSide : Nat := 8
/-- `SPR_W = SPR_H` (R8). -/
abbrev sprSide : Nat := 16
/-- `SENTINEL` (R8). -/
abbrev sentinel : Byte := 0xE3
/-- `ALPHA_MIN`: alpha below this is transparent (R8). -/
abbrev alphaMin : Byte := 128
/-- `BANK_SIZE` (R8). -/
abbrev bankSize : Nat := 8192
/-- `PAGE_SIZE_DEFAULT` (R8). -/
abbrev pageSizeDefault : Nat := 8192
/-- `MAX_W` (R8). -/
abbrev maxW : Nat := 256
/-- `FULL_H` (R8, R13). -/
abbrev fullH : Nat := 192
/-- `LPL_FLAT`: byte literals per line of a flat array (R8). -/
abbrev lplFlat : Nat := 16
/-- `LPL_TILE`: byte literals per line of a tile array (R8). -/
abbrev lplTile : Nat := 8
/-- `CMD_DEPTH`: words of command memory (R13). -/
abbrev cmdDepth : Nat := 256
/-- Bytes of raster memory: 49152 pixels of 4 bytes (R13, R34). -/
abbrev rasCapacity : Nat := 196608

end Sys2Proof
end

