-- ==== Sys2Proof/Syntax.lean ====
section
/-! DEFINITION. The sixteen commands of PRQ-CS 1 (30_encoding.md R93), one constructor per row of the opcode table,
and the assembler's source lines (R97, R98). Operands of a command have the width of their field (R91), so every term
of `Instr` is a command. -/

namespace Sys2Proof

/-- The colour mode of the encoders that produce palette indices: `cm` 0 and 1 (R91, R133). -/
inductive IndexMode where
  | nearest
  | exact
deriving DecidableEq, Repr

/-- The colour mode of the bitmap encoder: `cm` 0, 1 and 2 (R91, R191). -/
inductive ColourMode where
  | nearest
  | exact
  | trunc
deriving DecidableEq, Repr

/-- A command (R93). -/
inductive Instr where
  /-- `END` (R273) -/
  | endCmd
  /-- `QNT r, g, b` (R135) -/
  | qnt (r g b : Byte)
  /-- `XLT r, g, b` (R136) -/
  | xlt (r g b : Byte)
  /-- `T332 r, g, b` (R137) -/
  | t332 (r g b : Byte)
  /-- `HWB idx` (R138) -/
  | hwb (idx : BitVec 4)
  /-- `ENC.T NEAREST` (R155) -/
  | encTNearest
  /-- `ENC.T EXACT` (R156) -/
  | encTExact
  /-- `ENC.S NEAREST` (R176) -/
  | encSNearest
  /-- `ENC.S EXACT` (R177) -/
  | encSExact
  /-- `ENC.B NEAREST` (R194) -/
  | encBNearest
  /-- `ENC.B EXACT` (R195) -/
  | encBExact
  /-- `ENC.B TRUNC` (R196) -/
  | encBTrunc
  /-- `BANK` (R218) -/
  | bank
  /-- `PAGE base, size` (R219) -/
  | page (base : Byte) (size : BitVec 16)
  /-- `EMIT.H` (R245) -/
  | emitH
  /-- `EMIT.A` (R251) -/
  | emitA
deriving DecidableEq, Repr

/-- The command's mnemonic as spec/opcode_table.json spells it. -/
def Instr.mnemonic : Instr → String
  | .endCmd => "END"
  | .qnt _ _ _ => "QNT"
  | .xlt _ _ _ => "XLT"
  | .t332 _ _ _ => "T332"
  | .hwb _ => "HWB"
  | .encTNearest => "ENC.T_NEAREST"
  | .encTExact => "ENC.T_EXACT"
  | .encSNearest => "ENC.S_NEAREST"
  | .encSExact => "ENC.S_EXACT"
  | .encBNearest => "ENC.B_NEAREST"
  | .encBExact => "ENC.B_EXACT"
  | .encBTrunc => "ENC.B_TRUNC"
  | .bank => "BANK"
  | .page _ _ => "PAGE"
  | .emitH => "EMIT.H"
  | .emitA => "EMIT.A"

/-- The encode commands. -/
def Instr.isEncode : Instr → Bool
  | .encTNearest | .encTExact | .encSNearest | .encSExact | .encBNearest | .encBExact | .encBTrunc => true
  | .endCmd | .qnt _ _ _ | .xlt _ _ _ | .t332 _ _ _ | .hwb _ | .bank | .page _ _ | .emitH | .emitA => false

/-- The scalar commands (R134). -/
def Instr.isScalar : Instr → Bool
  | .qnt _ _ _ | .xlt _ _ _ | .t332 _ _ _ | .hwb _ => true
  | .encTNearest | .encTExact | .encSNearest | .encSExact | .encBNearest | .encBExact | .encBTrunc
  | .endCmd | .bank | .page _ _ | .emitH | .emitA => false

/-- The partition commands. -/
def Instr.isPartition : Instr → Bool
  | .bank | .page _ _ => true
  | .encTNearest | .encTExact | .encSNearest | .encSExact | .encBNearest | .encBExact | .encBTrunc
  | .endCmd | .qnt _ _ _ | .xlt _ _ _ | .t332 _ _ _ | .hwb _ | .emitH | .emitA => false

/-- The emit commands. -/
def Instr.isEmit : Instr → Bool
  | .emitH | .emitA => true
  | .encTNearest | .encTExact | .encSNearest | .encSExact | .encBNearest | .encBExact | .encBTrunc
  | .endCmd | .qnt _ _ _ | .xlt _ _ _ | .t332 _ _ _ | .hwb _ | .bank | .page _ _ => false

/-- One assembler line (R97, R98). A numeric operand is the number written, which may be out of its field's range; an
absent mode or page size is `none`. -/
inductive Source where
  | endCmd
  | qnt (r g b : Nat)
  | xlt (r g b : Nat)
  | t332 (r g b : Nat)
  | hwb (idx : Nat)
  | encT (mode : Option ColourMode)
  | encS (mode : Option ColourMode)
  | encB (mode : Option ColourMode)
  | bank
  | page (base : Nat) (size : Option Nat)
  | emitH
  | emitA
  | exportTiles
  | exportSprites
  | exportScreen
  | exportPaged (base : Nat)
deriving DecidableEq, Repr

end Sys2Proof
end

