-- ==== Sys2Proof/WellFormed.lean ====
section
/-! DEFINITION. The checks: an assembler line's operands are in range (30_encoding.md R97, R94(g)), and a
configuration is one the spec admits (00_scope.md R10, R12), as the one at reset is (R120, R322(a)). A term of `Instr`
needs no check: its operands have the width of their fields and every value of a field is legal (R91). -/

namespace Sys2Proof

/-- A palette-index encoder takes NEAREST or EXACT; there is no `ENC.T TRUNC` and no `ENC.S TRUNC` (R157, R178). -/
def indexModeOk : Option ColourMode → Bool
  | some .trunc => false
  | _ => true

/-- A line is well formed when each operand is in its range; otherwise it is an assembler error, not a command (R97). -/
def Source.wellFormed : Source → Bool
  | .qnt r g b => decide (r < 256) && decide (g < 256) && decide (b < 256)
  | .xlt r g b => decide (r < 256) && decide (g < 256) && decide (b < 256)
  | .t332 r g b => decide (r < 256) && decide (g < 256) && decide (b < 256)
  | .hwb idx => decide (idx < 16)
  | .encT m => indexModeOk m
  | .encS m => indexModeOk m
  | .page base size => decide (base < 256) && decide (size.getD 0 < 65536)
  | .exportPaged base => decide (base < 256)
  | .endCmd | .encB _ | .bank | .emitH | .emitA | .exportTiles | .exportSprites | .exportScreen => true

/-- R10: (a) `PAL[0] = PAL[8] = (0,0,0)`, (b) `PAL[15] = (255,255,255)`, (c) no other two entries are equal. -/
abbrev Config.PalAdmitted (c : Config) : Prop :=
  c.palAt 0 = black ∧ c.palAt 8 = black ∧ c.palAt 15 = white ∧
    ∀ i j : Fin 16, i < j → ¬(i = 0 ∧ j = 8) → c.palAt (BitVec.ofFin i) ≠ c.palAt (BitVec.ofFin j)

/-- A lower-case letter `a` to `z`. -/
def isLower (v : Byte) : Bool := decide (97 ≤ v.toNat) && decide (v.toNat ≤ 122)

/-- A character of `NAME`: `a` to `z`, `0` to `9` or `_` (R12). -/
def isNameByte (v : Byte) : Bool :=
  isLower v || (decide (48 ≤ v.toNat) && decide (v.toNat ≤ 57)) || decide (v = 95)

/-- R12: `NAME` is 1 to 32 characters over `a-z0-9_` and begins with a letter. -/
abbrev Config.NameAdmitted (c : Config) : Prop :=
  c.name.length ≤ 32 ∧ c.name.head?.any isLower = true ∧ c.name.all isNameByte = true

/-- A palette that R10 admits, sixteen greys with slot 8 black: it shows that there is one and is no hardware's palette
(log 1). -/
def greyRamp : Vector Rgb 16 :=
  Vector.ofFn fun i => if i = 8 then black else ⟨BitVec.ofNat 8 (17 * i), BitVec.ofNat 8 (17 * i), BitVec.ofNat 8 (17 * i)⟩

/-- The configuration `c` where R10 and R12 admit its palette and its name, every byte of it as it is; a palette or a
name they do not admit gives way to an admitted one (log 1). -/
def Config.conform (c : Config) : Config :=
  { c with
    pal := if c.PalAdmitted then c.pal else greyRamp
    name := if c.NameAdmitted then c.name else [97] }

/-- The configuration of the unit that `State.reset` describes: any that R10 and R12 admit (R322(a)), so `PAL[0]`,
`PAL[8]` and `PAL[15]` are the known entries of R120, and the other thirteen triples, HWB and NAME are free (U6 to U8,
log 1). -/
def Config.board : Config := Config.boardParameters.conform

end Sys2Proof
end

