-- ==== Sys2Proof/Decode.lean ====
section
/-! DEFINITION. The decoder (30_encoding.md R95), total on every 32-bit word and refusing every illegal word (R94),
and the encoder, written from the formats of R90 and the opcode map of R93. -/

namespace Sys2Proof

/-- The opcode field, bits 31:24 (R90). -/
def opField (w : Word) : Byte := w.extractLsb' 24 8

/-- The payload, bits 23:0 (R90). -/
def payload (w : Word) : BitVec 24 := w.extractLsb' 0 24

/-- Format C's three channels at 23:16, 15:8, 7:0, given to the command `c` (R91). -/
def decodeColour (c : Byte → Byte → Byte → Instr) (w : Word) : Option Instr :=
  some (c (w.extractLsb' 16 8) (w.extractLsb' 8 8) (w.extractLsb' 0 8))

/-- Format Z: the payload must be zero (R90, R94(b)). -/
def decodeBare (c : Instr) (w : Word) : Option Instr :=
  if payload w = 0 then some c else none

/-- Format I: bits 23:4 must be zero (R90, R94(c)). -/
def decodeIndex (w : Word) : Option Instr :=
  if w.extractLsb' 4 20 = 0 then some (.hwb (w.extractLsb' 0 4)) else none

/-- Format E: bits 23:10 and 7:2 must be zero; `fmt` is 9:8 and `cm` is 1:0; `fmt = 3`, `cm = 3` and TRUNC outside
bitmaps are illegal (R91, R94(d) to (g), R95). -/
def decodeEncoder (w : Word) : Option Instr :=
  if w.extractLsb' 10 14 = 0 ∧ w.extractLsb' 2 6 = 0 then
    match (w.extractLsb' 8 2).toNat, (w.extractLsb' 0 2).toNat with
    | 0, 0 => some .encTNearest
    | 0, 1 => some .encTExact
    | 1, 0 => some .encSNearest
    | 1, 1 => some .encSExact
    | 2, 0 => some .encBNearest
    | 2, 1 => some .encBExact
    | 2, 2 => some .encBTrunc
    | _, _ => none
  else none

/-- The command a word stands for; `none` for an illegal word (R94, R95). -/
def decode (w : Word) : Option Instr :=
  match (opField w).toNat with
  | 0x00 => decodeBare .endCmd w
  | 0x01 => decodeColour .qnt w
  | 0x02 => decodeColour .xlt w
  | 0x03 => decodeColour .t332 w
  | 0x04 => decodeIndex w
  | 0x10 => decodeEncoder w
  | 0x20 => decodeBare .bank w
  | 0x21 => some (.page (w.extractLsb' 16 8) (w.extractLsb' 0 16))
  | 0x30 => decodeBare .emitH w
  | 0x31 => decodeBare .emitA w
  | _ => none

/-- A word of the format with opcode `op` and payload `pl` (R90). -/
def wordOf (op : Byte) (pl : BitVec 24) : Word := op ++ pl

/-- The payload of format C (R90). -/
def colourPayload (r g b : Byte) : BitVec 24 := r ++ (g ++ b)

/-- The payload of format E with fields `fmt` and `cm` (R90). -/
def encoderPayload (fmt cm : BitVec 2) : BitVec 24 := 0#14 ++ (fmt ++ (0#6 ++ cm))

/-- The command's word (R93). -/
def encode : Instr → Word
  | .endCmd => wordOf 0x00 0
  | .qnt r g b => wordOf 0x01 (colourPayload r g b)
  | .xlt r g b => wordOf 0x02 (colourPayload r g b)
  | .t332 r g b => wordOf 0x03 (colourPayload r g b)
  | .hwb idx => wordOf 0x04 (0#20 ++ idx)
  | .encTNearest => wordOf 0x10 (encoderPayload 0 0)
  | .encTExact => wordOf 0x10 (encoderPayload 0 1)
  | .encSNearest => wordOf 0x10 (encoderPayload 1 0)
  | .encSExact => wordOf 0x10 (encoderPayload 1 1)
  | .encBNearest => wordOf 0x10 (encoderPayload 2 0)
  | .encBExact => wordOf 0x10 (encoderPayload 2 1)
  | .encBTrunc => wordOf 0x10 (encoderPayload 2 2)
  | .bank => wordOf 0x20 0
  | .page base size => wordOf 0x21 (base ++ size)
  | .emitH => wordOf 0x30 0
  | .emitA => wordOf 0x31 0

/-- The decoder on an instruction of `nbits` bits numbered as the opcode table numbers them: the whole instruction is
one 32-bit word (R90, R96), and bits above `nbits` are zero. -/
def decodeTableWord (nbits w : Nat) : Option Instr := decode (BitVec.ofNat 32 (w % 2 ^ nbits))

/-- The `match` and `mask` columns of the opcode map R93, by mnemonic. -/
def opcodeTable : List (String × Word × Word) :=
  [("END", 0x00000000, 0xFFFFFFFF), ("QNT", 0x01000000, 0xFF000000), ("XLT", 0x02000000, 0xFF000000),
   ("T332", 0x03000000, 0xFF000000), ("HWB", 0x04000000, 0xFFFFFFF0)] ++
  [("ENC.T_NEAREST", 0x10000000, 0xFFFFFFFF), ("ENC.T_EXACT", 0x10000001, 0xFFFFFFFF),
   ("ENC.S_NEAREST", 0x10000100, 0xFFFFFFFF), ("ENC.S_EXACT", 0x10000101, 0xFFFFFFFF),
   ("ENC.B_NEAREST", 0x10000200, 0xFFFFFFFF), ("ENC.B_EXACT", 0x10000201, 0xFFFFFFFF),
   ("ENC.B_TRUNC", 0x10000202, 0xFFFFFFFF)] ++
  [("BANK", 0x20000000, 0xFFFFFFFF), ("PAGE", 0x21000000, 0xFF000000),
   ("EMIT.H", 0x30000000, 0xFFFFFFFF), ("EMIT.A", 0x31000000, 0xFFFFFFFF)]

end Sys2Proof
end

