-- ==== Sys2Proof/Machine/State.lean ====
section
/-! DEFINITION. The state of the unit as plain data (10_state.md R20), its values at reset (R44), the host's moves
(R47), and the reasons a step can stop. -/

namespace Sys2Proof.Machine

open Sys2Proof

/-- `STATUS.FAULT`: the five values ever written (60_exceptions.md R281). -/
inductive FaultCode where
  | none
  | inputNotFound
  | dimensionConstraintViolation
  | illegalCommand
  | sequenceViolation
deriving DecidableEq, Repr

/-- `UKIND`: what the units are (10_state.md R37). -/
inductive UnitKind where
  | tiles
  | sprites
  | banks
  | pages
deriving DecidableEq, Repr

/-- One entry of `UNITS`: a 16-bit unit number and its bytes (R37). -/
structure EncUnit where
  num : BitVec 16
  bytes : List Byte
deriving DecidableEq, Repr

/-- A memory of cells `w` bits wide, in canonical form: addresses strictly rising, no entry equal to what an unlisted
address reads as (`Memory.unlisted`). For `w = 8` an entry is a `Host.Cell`. -/
abbrev Memory (w : Nat) := List (Nat × BitVec w)

/-- What the host may write, each a move of R47: a register of R29, a byte of `RAS` (R61), a word of `CMD` (R61). -/
inductive HostMove where
  | writeReg (n : Byte) (v : Word)
  | writeRas (a : Nat) (v : Byte)
  | writeCmd (i : Nat) (w : Word)
deriving DecidableEq, Repr

/-- What the host may read (R47(e), (f), R61): a register, a byte of a window, a unit's length or number. -/
inductive HostRead where
  | reg (n : Byte)
  | ras (a : Nat)
  | flat (o : Nat)
  | unitByte (k o : Nat)
  | unitLen (k : Nat)
  | unitNum (k : Nat)
  | txt (o : Nat)
deriving DecidableEq, Repr

/-- The complete state of the unit (R20), with the configuration it carries (R42) and two fields of the model's own. -/
structure State where
  /-- PAL, HWB, NAME: the parameter of the step relation, not the spec's state (R42, log 1). -/
  cfg : Config
  /-- `pc` (R25). -/
  pc : BitVec 9
  /-- `STATUS.RUN` (R26). -/
  run : Bool
  /-- `STATUS.DONE` (R26). -/
  done : Bool
  /-- `STATUS.FAULT` (R26). -/
  fault : FaultCode
  /-- `FINFO` (R28). -/
  finfo : Word
  /-- `STATUS.RV` (R26). -/
  rv : Bool
  /-- `RW` (R23). -/
  rw : BitVec 9
  /-- `RH` (R24). -/
  rh : BitVec 8
  /-- `RES` (R22). -/
  res : Byte
  /-- `RAS` (R34). -/
  ras : Memory 8
  /-- `CMD` (R35). -/
  cmd : Memory 32
  /-- `FLAT` (R36). -/
  flat : List Byte
  /-- `STATUS.FV` (R26, R36). -/
  fv : Bool
  /-- `UNITS` (R37). -/
  units : List EncUnit
  /-- `STATUS.UV` (R26, R37). -/
  uv : Bool
  /-- `STATUS.UKIND` (R26, R37). -/
  ukind : UnitKind
  /-- `GCOLS` (R37). -/
  gcols : BitVec 16
  /-- `GROWS` (R37). -/
  grows : BitVec 16
  /-- `TXT` (R38). -/
  txt : List Byte
  /-- `STATUS.TV` (R26, R38). -/
  tv : Bool
  /-- The host's pending moves, oldest first: the model's own field (R47, log 5). -/
  host : List HostMove
  /-- How many RESET actions there were: the model's own field, the argument of the free raster contents (log 3). -/
  resets : Nat
deriving DecidableEq, Repr

/-- The values R44 gives, for a unit of configuration `cfg`, with raster contents `ras` (unspecified by R44), host
moves `host` and RESET count `resets`. -/
def State.cleared (cfg : Config) (ras : Memory 8) (host : List HostMove) (resets : Nat) : State where
  cfg := cfg
  pc := 0
  run := false
  done := false
  fault := .none
  finfo := 0
  rv := false
  rw := 0
  rh := 0
  res := 0
  ras := ras
  cmd := []
  flat := []
  fv := false
  units := []
  uv := false
  ukind := .tiles
  gcols := 0
  grows := 0
  txt := []
  tv := false
  host := host
  resets := resets

/-- The unit right after power-on (R44): nothing listed in either memory, no host move pending. The raster bytes are
unspecified by R44; what an unlisted byte reads as is DESIGN CHOICE (log 2). -/
def State.reset : State := State.cleared Config.board [] [] 0

/-- Why the model has no next state. None of these is a fault of the unit: the unit's faults (R281) are next states. -/
inductive Fault where
  /-- Raised by `step`: RUN = 0 and no host move is pending, so no step is enabled (R271). Safe (log 4). -/
  | notRunning
  /-- Raised by a host write to `RAS` at an address of 196608 or above, which does not exist (R61). Safe (log 7). -/
  | hostRasterAddress
  /-- Raised by a host write to `CMD` at an index of 256 or above, which does not exist (R35). Safe (log 7). -/
  | hostCommandIndex
deriving DecidableEq, Repr

/-- Why the model admits no such instruction or move. -/
inductive Refusal where
  /-- Raised by an arm of `exec` that has no meaning yet. Safe. No arm of this model is one. -/
  | notModelled (mnemonic : String)
  /-- Raised by a host write to `RAS` or `CMD` while RUN = 1: U2 says the model gives the host no such move. Safe (log 8). -/
  | hostMoveDuringRun
deriving DecidableEq, Repr

/-- The three outcomes of a step of this unit. -/
abbrev Result := Host.Outcome State Fault Refusal

end Sys2Proof.Machine
end

