-- ==== Sys2Proof/Machine/Ops.lean ====
section
/-! DEFINITION. The shared operations: memory, the raster read, fetch, the writes commands share, fault entry and the
host's START and RESET actions. -/

namespace Sys2Proof.Machine

open Sys2Proof

/-- What an unlisted address reads as. For `CMD` this is R44's reset word 0; for `RAS`, whose contents R44 leaves
unspecified, DESIGN CHOICE (log 2). -/
abbrev Memory.unlisted (w : Nat) : BitVec w := 0#w

/-- Reads one cell (R67: a read returns the last value written). -/
def Memory.read {w : Nat} : Memory w → Nat → BitVec w
  | [], _ => Memory.unlisted w
  | (a, v) :: m, k => if a = k then v else Memory.read m k

/-- Writes one cell, keeping the canonical form: writing what an unlisted address reads as removes the entry. -/
def Memory.write {w : Nat} : Memory w → Nat → BitVec w → Memory w
  | [], k, v => if v = Memory.unlisted w then [] else [(k, v)]
  | (a, u) :: m, k, v =>
    if k < a then (if v = Memory.unlisted w then (a, u) :: m else (k, v) :: (a, u) :: m)
    else if k = a then (if v = Memory.unlisted w then m else (k, v) :: m)
    else (a, u) :: Memory.write m k v

/-- Every address is at least `lo`, addresses rise strictly, and no entry holds the unlisted value. -/
def Memory.ascending {w : Nat} : Nat → Memory w → Bool
  | _, [] => true
  | lo, (a, v) :: m => decide (lo ≤ a) && decide (v ≠ Memory.unlisted w) && Memory.ascending (a + 1) m

/-- The canonical form of a memory of `cap` cells. -/
def Memory.wf {w : Nat} (cap : Nat) (m : Memory w) : Bool :=
  Memory.ascending 0 m && m.all fun c => decide (c.1 < cap)

/-- The canonical memory of `cap` cells that raw contents describe: cells outside it are dropped, a later pair of the
same address wins. -/
def Memory.canon {w : Nat} (cap : Nat) (raw : List (Nat × BitVec w)) : Memory w :=
  raw.foldl (fun m c => if c.1 < cap then m.write c.1 c.2 else m) []

/-- A pixel: red, green, blue, alpha (20_memory.md R62). -/
structure Pixel where
  rgb : Rgb
  a : Byte
deriving DecidableEq, Repr

/-- `RAS(x, y)`: the pixel of index `p = y × RW + x`, at raster bytes `4p` to `4p + 3` in the order red, green, blue,
alpha (R62). -/
def State.pixel (s : State) (x y : Nat) : Pixel :=
  let p := y * s.rw.toNat + x
  ⟨⟨s.ras.read (4 * p), s.ras.read (4 * p + 1), s.ras.read (4 * p + 2)⟩, s.ras.read (4 * p + 3)⟩

/-- `CMD[pc]`: at index 256 or above the word is `0xFFFFFFFF` (10_state.md R35, R271). -/
def State.fetch (s : State) : Word :=
  if s.pc.toNat < cmdDepth then s.cmd.read s.pc.toNat else 0xFFFFFFFF

/-- `s[a:b]`: elements `a` up to but not including `b` (00_scope.md R16). -/
def slice {α : Type} (l : List α) (a b : Nat) : List α := (l.drop a).take (b - a)

/-- `ceil(a / b)` for `b > 0` (R14). -/
def ceilDiv (a b : Nat) : Nat := (a + b - 1) / b

/-- `pc <- pc + 1` (R25). -/
def State.advance (s : State) : State := { s with pc := s.pc + 1 }

/-- `RES <- v` (R22). -/
def State.setRes (v : Byte) (s : State) : State := { s with res := v }

/-- `FLAT <- []; FV <- 0` (R36). -/
def State.dropFlat (s : State) : State := { s with flat := [], fv := false }

/-- A producer of units replaces `UNITS` whole and invalidates `TXT` (R37, R39). -/
def State.putUnits (kind : UnitKind) (cols rows : Nat) (u : List EncUnit) (s : State) : State :=
  { s with units := u, uv := true, ukind := kind, gcols := BitVec.ofNat 16 cols, grows := BitVec.ofNat 16 rows,
           txt := [], tv := false }

/-- The bitmap encoder replaces `FLAT` whole and invalidates `UNITS` and `TXT` (R36, R39, R193). -/
def State.putFlat (f : List Byte) (s : State) : State :=
  { s with flat := f, fv := true, units := [], uv := false, ukind := .tiles, gcols := 0, grows := 0,
           txt := [], tv := false }

/-- `TXT <- t; TV <- 1` (R38). -/
def State.putTxt (t : List Byte) (s : State) : State := { s with txt := t, tv := true }

/-- `RUN <- 0; DONE <- 1` (R273). -/
def State.finish (s : State) : State := { s with run := false, done := true }

/-- Fault entry, `raise F(w)`: `FAULT <- c; FINFO <- w; RUN <- 0` and nothing else (60_exceptions.md R291). There is no
handler and no return (R293). -/
def State.raise (c : FaultCode) (w : Word) (s : State) : State := { s with fault := c, finfo := w, run := false }

/-- The fetched word is no command: IllegalCommand with that word (R286). -/
def State.illegal (s : State) : State := s.raise .illegalCommand s.fetch

/-- A command whose checks give `c`: no fault, and its writes happen together (`t`); or that fault with the command's
word, and none of them (46_control.md R271). -/
def checked (c : FaultCode) (i : Instr) (s t : State) : Result :=
  match c with
  | .none => .next t
  | c => .next (s.raise c (encode i))

/-- `1 ≤ RW ≤ 256` and `1 ≤ RH ≤ 192` (R284(a)). -/
def State.dimsOk (s : State) : Bool :=
  decide (1 ≤ s.rw.toNat) && decide (s.rw.toNat ≤ maxW) && decide (1 ≤ s.rh.toNat) && decide (s.rh.toNat ≤ fullH)

/-- The checks of every encode command, in order: InputNotFound, then DimensionConstraintViolation (R283, R284, R289). -/
def State.encodeCheck (s : State) : FaultCode :=
  if s.rv = false then .inputNotFound
  else if s.dimsOk = false then .dimensionConstraintViolation
  else .none

/-- The checks of `BANK` and `PAGE`, in order: SequenceViolation, then DimensionConstraintViolation (R215, R287, R289). -/
def State.partitionCheck (s : State) : FaultCode :=
  if s.fv = false then .sequenceViolation
  else if s.rh.toNat ≠ fullH then .dimensionConstraintViolation
  else .none

/-- The check of `EMIT.H` (R245, R287). -/
def State.emitHCheck (s : State) : FaultCode :=
  if s.uv = false then .sequenceViolation else .none

/-- The check of `EMIT.A` (R251, R287). -/
def State.emitACheck (s : State) : FaultCode :=
  if s.uv = false ∨ s.ukind ≠ .pages then .sequenceViolation else .none

/-- START: a new export begins from `pc = 0` with every result of an earlier one gone; RV, RW, RH, RAS and CMD stay
(10_state.md R45). -/
def State.start (s : State) : State :=
  { s with pc := 0, run := true, done := false, fault := .none, finfo := 0, res := 0, fv := false, uv := false,
           tv := false, ukind := .tiles, gcols := 0, grows := 0, flat := [], units := [], txt := [] }

/-- RESET: the values of R44. The configuration stays; the raster contents become unspecified, a free value (U1,
log 3); the host's pending moves are the host's and stay. -/
def State.resetAction (s : State) : State :=
  State.cleared s.cfg (Memory.canon rasCapacity (Config.rasterAfterReset s.resets)) s.host (s.resets + 1)

end Sys2Proof.Machine
end

