-- ==== Sys2Proof/Machine/Operands.lean ====
section
/-! DEFINITION. The operand forms and colour functions of 40_palette_quantizer.md, and the effective page size of
30_encoding.md R92. Each is a pure function of its operands and the configuration (00_scope.md R18). -/

namespace Sys2Proof.Machine

open Sys2Proof

/-- `(r-pr)² + (g-pg)² + (b-pb)²` on mathematical integers (R122, R124). -/
def sqDist (p c : Rgb) : Int :=
  let dr : Int := c.r.toNat - p.r.toNat
  let dg : Int := c.g.toNat - p.g.toNat
  let db : Int := c.b.toNat - p.b.toNat
  dr * dr + dg * dg + db * db

/-- The scan of R124 from index `i` on: a strictly smaller distance replaces the best so far. -/
def nearestFrom (c : Rgb) : List Rgb → Nat → Nat → Int → Nat
  | [], _, best, _ => best
  | p :: ps, i, best, bestd =>
    if sqDist p c < bestd then nearestFrom c ps (i + 1) i (sqDist p c) else nearestFrom c ps (i + 1) best bestd

/-- `Quantize(r, g, b)`: the index of the nearest palette entry, the lowest on a tie (R124). -/
def quantize (cfg : Config) (c : Rgb) : BitVec 4 :=
  BitVec.ofNat 4 (nearestFrom c (cfg.pal.toList.drop 1) 1 0 (sqDist (cfg.palAt 0) c))

/-- The scan of R128 from index `i` on: the first equal entry, else 0. -/
def exactFrom (c : Rgb) : List Rgb → Nat → Nat
  | [], _ => 0
  | p :: ps, i => if p = c then i else exactFrom c ps (i + 1)

/-- `ExactLookup(r, g, b)`: the first palette entry equal to the colour, or index 0 (UnmappableColor, no fault and no
flag: R128, R285). -/
def exactLookup (cfg : Config) (c : Rgb) : BitVec 4 := BitVec.ofNat 4 (exactFrom c cfg.pal.toList 0)

/-- `Trunc332(r, g, b) = ((r >> 5) << 5) | ((g >> 5) << 2) | (b >> 6)` (R130). -/
def trunc332 (c : Rgb) : Byte := ((c.r >>> 5) <<< 5) ||| ((c.g >>> 5) <<< 2) ||| (c.b >>> 6)

/-- `Resolve(cm, r, g, b)` for the two index modes (R133). -/
def resolve (m : IndexMode) (cfg : Config) (c : Rgb) : BitVec 4 :=
  match m with
  | .nearest => quantize cfg c
  | .exact => exactLookup cfg c

/-- `zext_8` of a palette index (R15). -/
def indexByte (i : BitVec 4) : Byte := i.setWidth 8

/-- The effective page size: 8192 when the field is 0, the field otherwise (R92, R216). -/
def pageSize (size : BitVec 16) : Nat := if size = 0 then pageSizeDefault else size.toNat

end Sys2Proof.Machine
end

