-- ==== Sys2Proof/Machine/Grid.lean ====
section
/-! DEFINITION. The block grid tiles and sprites share (41_tile.md R153, 42_sprite.md R174): whole blocks only, in
row-major order, numbered in that order. -/

namespace Sys2Proof.Machine

open Sys2Proof

/-- `[f 0 0, f 1 0, …]`: row by row from the top, each row from the left. -/
def rowMajor {α : Type} (cols rows : Nat) (f : Nat → Nat → α) : List α :=
  (List.range rows).flatMap fun y => (List.range cols).map fun x => f x y

/-- The units of a grid of `cols` by `rows` blocks of side `side`: the block of column `tc`, row `tr` has its top-left
pixel at `(side·tc, side·tr)` and is unit `tr × cols + tc` (R153, R174). -/
def gridUnits (side cols rows : Nat) (block : Nat → Nat → List Byte) : List EncUnit :=
  rowMajor cols rows fun tc tr => ⟨BitVec.ofNat 16 (tr * cols + tc), block (side * tc) (side * tr)⟩

/-- A grid encoder: its checks (R283, R284), then UNITS of the whole blocks, FLAT dropped, TXT dropped, pc + 1; partial
blocks are dropped, never padded (R154, R155, R176). -/
def encodeGrid (i : Instr) (kind : UnitKind) (side : Nat) (block : Nat → Nat → List Byte) (s : State) : Result :=
  let cols := s.rw.toNat / side
  let rows := s.rh.toNat / side
  checked s.encodeCheck i s ((s.dropFlat.putUnits kind cols rows (gridUnits side cols rows block)).advance)

end Sys2Proof.Machine
end

