-- ==== Sys2Proof/Machine/Bitmap.lean ====
section
/-! DEFINITION. The RGB332 bitmap row serializer, ENC.B (43_bitmap.md). -/

namespace Sys2Proof.Machine

open Sys2Proof

/-- `BitmapByte(cm, r, g, b)` (R191). -/
def bitmapByte (m : ColourMode) (cfg : Config) (c : Rgb) : Byte :=
  match m with
  | .nearest => cfg.hwbAt (quantize cfg c)
  | .exact => cfg.hwbAt (exactLookup cfg c)
  | .trunc => trunc332 c

/-- The array of R193: one byte a pixel, rows from the top, each from the left; alpha is not read (R190). -/
def bitmapBytes (m : ColourMode) (s : State) : List Byte :=
  rowMajor s.rw.toNat s.rh.toNat fun x y => bitmapByte m s.cfg (s.pixel x y).rgb

/-- The serializer: its checks, then FLAT, UNITS and TXT dropped, pc + 1 (R193). -/
def encodeBitmap (i : Instr) (m : ColourMode) (s : State) : Result :=
  checked s.encodeCheck i s ((s.putFlat (bitmapBytes m s)).advance)

/-- `ENC.B NEAREST` (R194). -/
def execEncBNearest (s : State) : Result := encodeBitmap .encBNearest .nearest s

/-- `ENC.B EXACT` (R195). -/
def execEncBExact (s : State) : Result := encodeBitmap .encBExact .exact s

/-- `ENC.B TRUNC` (R196). -/
def execEncBTrunc (s : State) : Result := encodeBitmap .encBTrunc .trunc s

end Sys2Proof.Machine
end

