-- ==== Sys2Proof/Machine/Control.lean ====
section
/-! DEFINITION. The control command END (46_control.md). -/

namespace Sys2Proof.Machine

open Sys2Proof

/-- `END`: `RUN <- 0; DONE <- 1`, `pc` unchanged (R273). -/
def execEnd (s : State) : Result := .next s.finish

end Sys2Proof.Machine
end

