-- ==== Sys2Proof/Machine/Partition.lean ====
section
/-! DEFINITION. The bank partitioner and page splitter, BANK and PAGE (44_partition.md). -/

namespace Sys2Proof.Machine

open Sys2Proof

/-- Chunk `k` of `l` cut every `n` elements: `l[k·n : min((k+1)·n, len(l))]` (R211, 45_declaration.md R234). -/
def chunk {α : Type} (l : List α) (n k : Nat) : List α := slice l (k * n) (min ((k + 1) * n) l.length)

/-- `Split(F, ps, base)`: `ceil(L / ps)` chunks, chunk `k` numbered `base + k` (R211). -/
def split (f : List Byte) (ps base : Nat) : List EncUnit :=
  (List.range (ceilDiv f.length ps)).map fun k => ⟨BitVec.ofNat 16 (base + k), chunk f ps k⟩

/-- A partition command: its checks (R215, R287), then UNITS in one column, TXT dropped, pc + 1; FLAT stays (R217). -/
def partition (i : Instr) (kind : UnitKind) (ps base : Nat) (s : State) : Result :=
  let u := split s.flat ps base
  checked s.partitionCheck i s ((s.putUnits kind 1 u.length u).advance)

/-- `BANK` (R218). -/
def execBank (s : State) : Result := partition .bank .banks bankSize 0 s

/-- `PAGE base, size` (R219). -/
def execPage (base : Byte) (size : BitVec 16) (s : State) : Result :=
  partition (.page base size) .pages (pageSize size) base.toNat s

end Sys2Proof.Machine
end

