-- ==== Sys2Proof/Machine/Text.lean ====
section
/-! DEFINITION. The declaration text (45_declaration.md): ASCII bytes (00_scope.md R16), every line ending with the
single byte 0x0A. -/

namespace Sys2Proof.Machine

open Sys2Proof

/-- The ASCII bytes of a string literal (R16). -/
def ascii (t : String) : List Byte := t.toList.map fun c => BitVec.ofNat 8 c.toNat

/-- `"\n"`: the single byte 0x0A (R16). -/
def eol : List Byte := [0x0A]

/-- The decimal digits of `n`, given fuel above the number of digits. -/
def decDigits : Nat → Nat → List Byte
  | 0, _ => []
  | f + 1, n =>
    if n < 10 then [BitVec.ofNat 8 (48 + n)] else decDigits f (n / 10) ++ [BitVec.ofNat 8 (48 + n % 10)]

/-- `Dec(n)`: the decimal numeral, no leading zero, `Dec(0) = "0"` (R231). -/
def dec (n : Nat) : List Byte := decDigits (n + 1) n

/-- One hexadecimal digit, upper case (R233). -/
def hexDigit (d : Nat) : Byte := if d < 10 then BitVec.ofNat 8 (48 + d) else BitVec.ofNat 8 (55 + d)

/-- `Hex2(v)`: two hexadecimal digits, most significant first (R233). -/
def hex2 (v : Byte) : List Byte := [hexDigit (v.toNat / 16), hexDigit (v.toNat % 16)]

/-- `Upper` of one byte: `a` to `z` become `A` to `Z`, others stay (R232). -/
def upperByte (v : Byte) : Byte := if isLower v then v - 32 else v

/-- `Upper(s)` (R232). -/
def upper (s : List Byte) : List Byte := s.map upperByte

/-- `KindWord` (R235). -/
def kindWord : UnitKind → List Byte
  | .tiles => ascii "tile"
  | .sprites => ascii "sprite"
  | .banks => ascii "bank"
  | .pages => ascii "page"

/-- `Label(num) = NAME _ KindWord _ Dec(num)` (R232). -/
def label (name : List Byte) (kind : UnitKind) (num : BitVec 16) : List Byte :=
  name ++ ascii "_" ++ kindWord kind ++ ascii "_" ++ dec num.toNat

/-- `TableName = NAME _ KindWord _table` (R232). -/
def tableName (name : List Byte) (kind : UnitKind) : List Byte :=
  name ++ ascii "_" ++ kindWord kind ++ ascii "_table"

/-- `Lines(B, n)`: the chunks of `n` bytes, the last holding what remains; none for empty `B` (R234). -/
def textLines (b : List Byte) (n : Nat) : List (List Byte) := (List.range (ceilDiv b.length n)).map (chunk b n)

/-- `LPL`: 8 byte literals a line for tiles, 16 otherwise (R234, R237). -/
def lpl : UnitKind → Nat
  | .tiles => lplTile
  | .sprites | .banks | .pages => lplFlat

/-- `join(", ", …)` of the bytes of a line, each with the prefix `pre` before its two digits (R240, R250). -/
def literals (pre : List Byte) (c : List Byte) : List Byte :=
  (ascii ", ").intercalate (c.map fun v => pre ++ hex2 v)

/-- Indented lines, each but the last followed by a comma (R240(e), (f)). -/
def commaLines : List (List Byte) → List Byte
  | [] => []
  | [x] => ascii "    " ++ x ++ eol
  | x :: y :: xs => ascii "    " ++ x ++ ascii "," ++ eol ++ commaLines (y :: xs)

/-- `"] = {\n"`; 0x7B is the opening brace. -/
def openArray : List Byte := ascii "] = " ++ [0x7B] ++ eol

/-- `"};\n"` and an empty line; 0x7D is the closing brace. -/
def closeArray : List Byte := [0x7D] ++ ascii ";" ++ eol ++ eol

/-- `#define U_m n`, one line (R240(b), (c)). -/
def sizeMacro (u m : List Byte) (n : Nat) : List Byte := ascii "#define " ++ u ++ m ++ dec n ++ eol

/-- R240(a). -/
def guardOpen (name : List Byte) : List Byte :=
  ascii "#ifndef " ++ upper name ++ ascii "_H" ++ eol ++ (ascii "#define " ++ upper name ++ ascii "_H" ++ eol) ++ eol

/-- The sum of the lengths of all units (R240). -/
def totalBytes (units : List EncUnit) : Nat := (units.map fun u => u.bytes.length).sum

/-- R240(b). -/
def sizeMacros (name : List Byte) (rw rh : Nat) (units : List EncUnit) : List Byte :=
  sizeMacro (upper name) (ascii "_WIDTH ") rw ++ sizeMacro (upper name) (ascii "_HEIGHT ") rh ++
    sizeMacro (upper name) (ascii "_SIZE ") (totalBytes units)

/-- R240(c): one per-unit size macro, for banks and pages only. -/
def unitMacros (name : List Byte) (kind : UnitKind) (units : List EncUnit) : List Byte :=
  match kind with
  | .tiles | .sprites => []
  | .banks | .pages =>
    units.flatMap fun u => sizeMacro (upper (label name kind u.num)) (ascii "_SIZE ") u.bytes.length

/-- R240(e): one unit's array. -/
def unitArray (name : List Byte) (kind : UnitKind) (u : EncUnit) : List Byte :=
  ascii "const unsigned char " ++ label name kind u.num ++ ascii "[" ++ dec u.bytes.length ++ openArray ++
    commaLines ((textLines u.bytes (lpl kind)).map (literals (ascii "0x"))) ++ closeArray

/-- R240(f): the lookup table; entry `i` is the label of unit `i` (R243). -/
def lookupTable (name : List Byte) (kind : UnitKind) (units : List EncUnit) : List Byte :=
  ascii "const unsigned char * const " ++ tableName name kind ++ ascii "[" ++ dec units.length ++ openArray ++
    commaLines (units.map fun u => label name kind u.num) ++ closeArray

/-- `HeaderText`: parts (a) to (g) of R240, a function of NAME, UKIND, RW, RH and UNITS alone (R236). -/
def headerText (name : List Byte) (kind : UnitKind) (rw rh : Nat) (units : List EncUnit) : List Byte :=
  guardOpen name ++ sizeMacros name rw rh units ++ unitMacros name kind units ++ eol ++
    units.flatMap (unitArray name kind) ++ lookupTable name kind units ++ (ascii "#endif" ++ eol)

/-- One `defb` line (R250). -/
def defbLine (c : List Byte) : List Byte := ascii "    defb " ++ literals (ascii "$") c ++ eol

/-- One page's section (R250). -/
def asmSection (name : List Byte) (u : EncUnit) : List Byte :=
  ascii "SECTION PAGE_" ++ dec u.num.toNat ++ eol ++
    (ascii "PUBLIC _" ++ label name .pages u.num ++ eol) ++
    (ascii "defc _" ++ label name .pages u.num ++ ascii "_size = " ++ dec u.bytes.length ++ eol) ++
    (ascii "_" ++ label name .pages u.num ++ ascii ":" ++ eol) ++
    (textLines u.bytes lplFlat).flatMap defbLine ++ eol

/-- `AsmText`: one section for each page (R250). -/
def asmText (name : List Byte) (units : List EncUnit) : List Byte := units.flatMap (asmSection name)

end Sys2Proof.Machine
end

