-- ==== Sys2Proof/Machine/Emit.lean ====
section
/-! DEFINITION. The declaration text generator's commands, EMIT.H and EMIT.A (45_declaration.md R245, R251). -/

namespace Sys2Proof.Machine

open Sys2Proof

/-- `EMIT.H` (R245). -/
def execEmitH (s : State) : Result :=
  checked s.emitHCheck .emitH s
    ((s.putTxt (headerText s.cfg.name s.ukind s.rw.toNat s.rh.toNat s.units)).advance)

/-- `EMIT.A` (R251). -/
def execEmitA (s : State) : Result :=
  checked s.emitACheck .emitA s ((s.putTxt (asmText s.cfg.name s.units)).advance)

end Sys2Proof.Machine
end

