-- ==== Sys2Proof/Machine/Scalar.lean ====
section
/-! DEFINITION. The scalar commands: each writes RES and nothing else, then `pc <- pc + 1`; none can fault
(40_palette_quantizer.md R134). -/

namespace Sys2Proof.Machine

open Sys2Proof

/-- `RES <- v; pc <- pc + 1` (R134). -/
def scalar (v : Byte) (s : State) : Result := .next ((s.setRes v).advance)

/-- `QNT r, g, b` (R135). -/
def execQnt (r g b : Byte) (s : State) : Result := scalar (indexByte (quantize s.cfg ⟨r, g, b⟩)) s

/-- `XLT r, g, b` (R136). -/
def execXlt (r g b : Byte) (s : State) : Result := scalar (indexByte (exactLookup s.cfg ⟨r, g, b⟩)) s

/-- `T332 r, g, b` (R137). -/
def execT332 (r g b : Byte) (s : State) : Result := scalar (trunc332 ⟨r, g, b⟩) s

/-- `HWB idx` (R138). -/
def execHwb (idx : BitVec 4) (s : State) : Result := scalar (s.cfg.hwbAt idx) s

end Sys2Proof.Machine
end

