-- ==== Sys2Proof/Machine/Sprite.lean ====
section
/-! DEFINITION. The sprite indexer, ENC.S (42_sprite.md). -/

namespace Sys2Proof.Machine

open Sys2Proof

/-- `SpritePixel(cm, r, g, b, a)`: the sentinel for alpha below 128, else the palette index (R171). -/
def spritePixel (m : IndexMode) (cfg : Config) (p : Pixel) : Byte :=
  if p.a < alphaMin then sentinel else indexByte (resolve m cfg p.rgb)

/-- `SpriteBlock(cm, x0, y0)`: 16 rows of 16 bytes (R172). -/
def spriteBlock (m : IndexMode) (s : State) (x0 y0 : Nat) : List Byte :=
  rowMajor 16 16 fun x y => spritePixel m s.cfg (s.pixel (x0 + x) (y0 + y))

/-- `ENC.S NEAREST` (R176). -/
def execEncSNearest (s : State) : Result := encodeGrid .encSNearest .sprites sprSide (spriteBlock .nearest s) s

/-- `ENC.S EXACT` (R177). -/
def execEncSExact (s : State) : Result := encodeGrid .encSExact .sprites sprSide (spriteBlock .exact s) s

end Sys2Proof.Machine
end

