-- ==== Sys2Proof/Machine/Tile.lean ====
section
/-! DEFINITION. The tile nibble-packer, ENC.T (41_tile.md). -/

namespace Sys2Proof.Machine

open Sys2Proof

/-- Two palette indices in a byte: the left pixel in the high nibble (R150, R151). -/
def packPair (left right : BitVec 4) : Byte := (indexByte left <<< 4) ||| indexByte right

/-- The palette index of the raster's pixel; its alpha is not read (R151). -/
def State.pixelIndex (s : State) (m : IndexMode) (x y : Nat) : BitVec 4 := resolve m s.cfg (s.pixel x y).rgb

/-- `TileBlock(cm, x0, y0)`: 8 rows of 4 bytes, each a pair of neighbouring pixels (R151). -/
def tileBlock (m : IndexMode) (s : State) (x0 y0 : Nat) : List Byte :=
  rowMajor 4 8 fun j y => packPair (s.pixelIndex m (x0 + 2 * j) (y0 + y)) (s.pixelIndex m (x0 + 2 * j + 1) (y0 + y))

/-- `ENC.T NEAREST` (R155). -/
def execEncTNearest (s : State) : Result := encodeGrid .encTNearest .tiles tileSide (tileBlock .nearest s) s

/-- `ENC.T EXACT` (R156). -/
def execEncTExact (s : State) : Result := encodeGrid .encTExact .tiles tileSide (tileBlock .exact s) s

end Sys2Proof.Machine
end

