-- ==== Sys2Proof/Machine/Dispatch.lean ====
section
/-! DEFINITION. What each command does, by its own meaning. -/

namespace Sys2Proof.Machine

open Sys2Proof

def exec (i : Instr) (s : State) : Host.Outcome State Fault Refusal :=
  match i with
  | .endCmd => Sys2Proof.Machine.execEnd s
  | .qnt r g b => Sys2Proof.Machine.execQnt r g b s
  | .xlt r g b => Sys2Proof.Machine.execXlt r g b s
  | .t332 r g b => Sys2Proof.Machine.execT332 r g b s
  | .hwb idx => Sys2Proof.Machine.execHwb idx s
  | .encTNearest => Sys2Proof.Machine.execEncTNearest s
  | .encTExact => Sys2Proof.Machine.execEncTExact s
  | .encSNearest => Sys2Proof.Machine.execEncSNearest s
  | .encSExact => Sys2Proof.Machine.execEncSExact s
  | .encBNearest => Sys2Proof.Machine.execEncBNearest s
  | .encBExact => Sys2Proof.Machine.execEncBExact s
  | .encBTrunc => Sys2Proof.Machine.execEncBTrunc s
  | .bank => Sys2Proof.Machine.execBank s
  | .page base size => Sys2Proof.Machine.execPage base size s
  | .emitH => Sys2Proof.Machine.execEmitH s
  | .emitA => Sys2Proof.Machine.execEmitA s

end Sys2Proof.Machine
end

