-- ==== Sys2Proof/Machine/Flags.lean ====
section
/-! DEFINITION. The STATUS word (10_state.md R26). The hardware has no arithmetic condition codes (R30): these bits are
its only flags, and each is a field of State. -/

namespace Sys2Proof.Machine

open Sys2Proof

/-- The number of a fault code (60_exceptions.md R281). -/
def FaultCode.code : FaultCode → BitVec 4
  | .none => 0
  | .inputNotFound => 1
  | .dimensionConstraintViolation => 2
  | .illegalCommand => 3
  | .sequenceViolation => 4

/-- The number of a unit kind (10_state.md R37). -/
def UnitKind.code : UnitKind → BitVec 2
  | .tiles => 0
  | .sprites => 1
  | .banks => 2
  | .pages => 3

/-- `STATUS`: bits 31:12 zero, FAULT 11:8, UKIND 7:6, TV 5, UV 4, FV 3, RV 2, DONE 1, RUN 0 (R26). -/
def State.status (s : State) : Word :=
  0#20 ++ (s.fault.code ++ (s.ukind.code ++ (BitVec.ofBool s.tv ++ (BitVec.ofBool s.uv ++ (BitVec.ofBool s.fv ++
    (BitVec.ofBool s.rv ++ (BitVec.ofBool s.done ++ BitVec.ofBool s.run)))))))

end Sys2Proof.Machine
end

