-- ==== Sys2Proof/Machine/HostPort.lean ====
section
/-! DEFINITION. The host's side of the interface: the register map (10_state.md R29), CTRL (R27), the memory windows
(20_memory.md R61), and the host's turn while the unit does not run (R47, R48). -/

namespace Sys2Proof.Machine

open Sys2Proof

/-- A write to CTRL: ignored while RUN = 1; RESET (bit 1) before START (bit 0); other bits ignored (R27). -/
def State.writeCtrl (v : Word) (s : State) : State :=
  if s.run then s
  else if v.getLsbD 1 then s.resetAction
  else if v.getLsbD 0 then s.start
  else s

/-- A host write of register `n`. RW, RH and RVALID store the low 9, 8 or 1 bits; writes to read-only and reserved
registers, and every write while RUN = 1, are ignored (R27, R29). -/
def State.writeReg (n : Byte) (v : Word) (s : State) : State :=
  match n.toNat with
  | 0 => s.writeCtrl v
  | 4 => if s.run then s else { s with rw := v.setWidth 9 }
  | 5 => if s.run then s else { s with rh := v.setWidth 8 }
  | 12 => if s.run then s else { s with rv := v.getLsbD 0 }
  | _ => s

/-- A host read of register `n`: the field in the low bits, zeros above; CTRL and registers 13 to 255 read 0 (R29). -/
def State.readReg (n : Byte) (s : State) : Word :=
  match n.toNat with
  | 1 => s.status
  | 2 => s.pc.setWidth 32
  | 3 => s.res.setWidth 32
  | 4 => s.rw.setWidth 32
  | 5 => s.rh.setWidth 32
  | 6 => s.finfo
  | 7 => (BitVec.ofNat 16 s.flat.length).setWidth 32
  | 8 => (BitVec.ofNat 16 s.units.length).setWidth 32
  | 9 => BitVec.ofNat 32 s.txt.length
  | 10 => s.gcols.setWidth 32
  | 11 => s.grows.setWidth 32
  | 12 => (BitVec.ofBool s.rv).setWidth 32
  | _ => 0

/-- What a read yields; outside a window's bounds it is 0 (R61). -/
def State.window (q : HostRead) (s : State) : Word :=
  match q with
  | .reg n => s.readReg n
  | .ras a => if a < rasCapacity then (s.ras.read a).setWidth 32 else 0
  | .flat o => (s.flat.getD o 0).setWidth 32
  | .unitByte k o => ((s.units[k]?.elim [] EncUnit.bytes).getD o 0).setWidth 32
  | .unitLen k => (BitVec.ofNat 16 (s.units[k]?.elim 0 fun u => u.bytes.length)).setWidth 32
  | .unitNum k => (s.units[k]?.elim 0 EncUnit.num).setWidth 32
  | .txt o => (s.txt.getD o 0).setWidth 32

/-- A host read. While RUN = 1 the host makes no move but reading STATUS (R48, U2): no other read has an answer then
(log 9). -/
def State.hostRead (q : HostRead) (s : State) : Option Word :=
  if s.run = true ∧ q ≠ .reg 1 then none else some (s.window q)

/-- One move of the host. A register write is defined at any time (R27, R29). A write to RAS or CMD while RUN = 1 is a
move the model does not give the host (U2, log 8); outside the memory it goes to no cell that exists (log 7). -/
def hostMove (m : HostMove) (s : State) : Result :=
  match m with
  | .writeReg n v => .next (s.writeReg n v)
  | .writeRas a v =>
    if s.run then .refused .hostMoveDuringRun
    else if a < rasCapacity then .next { s with ras := s.ras.write a v }
    else .fault .hostRasterAddress
  | .writeCmd i w =>
    if s.run then .refused .hostMoveDuringRun
    else if i < cmdDepth then .next { s with cmd := s.cmd.write i w }
    else .fault .hostCommandIndex

/-- While RUN = 0 the sequencer has no step (R271) and the host's oldest pending move happens; with none pending
nothing can happen (log 4, log 5). -/
def hostTurn (s : State) : Result :=
  match s.host with
  | [] => .fault .notRunning
  | m :: rest => hostMove m { s with host := rest }

end Sys2Proof.Machine
end

