-- ==== Sys2Proof/Machine/Step.lean ====
section
/-! DEFINITION. One step of the machine (46_control.md R271): while RUN = 1 the sequencer executes the command at
`pc`; while RUN = 0 the host's next move happens. -/

namespace Sys2Proof.Machine

open Sys2Proof

/-- The step: fetch, decode, execute; an illegal word raises IllegalCommand (R271). It reads no clock and no choice. -/
def step (s : State) : Host.Outcome State Fault Refusal :=
  if s.run then
    match decode s.fetch with
    | some i => exec i s
    | none => .next s.illegal
  else hostTurn s

/-- `s` with the word `w` of `nbits` bits in `CMD` at the index the next step fetches from, and the unit RUNNING (R43),
so that the next step executes it. A `pc` of 256 or above, where no word of `CMD` is fetched, becomes 0 (log 6). -/
def State.withFetchWord (s : State) (nbits w : Nat) : State :=
  let idx : BitVec 9 := if s.pc.toNat < cmdDepth then s.pc else 0
  { s with pc := idx, cmd := s.cmd.write idx.toNat (BitVec.ofNat 32 (w % 2 ^ nbits)), run := true, done := false,
           fault := .none }

end Sys2Proof.Machine
end

