-- ==== Sys2Proof/Machine/Assembler.lean ====
section
/-! DEFINITION. The assembler syntax (30_encoding.md R97) and the pseudo-instructions with their expansions (R98). It
writes programs down; no step of the machine reads it. Which characters separate words is DESIGN CHOICE (log 13). -/

namespace Sys2Proof.Machine

open Sys2Proof

/-- `ENC.T mode`; an absent mode is NEAREST (R98). -/
def tileSource : Option ColourMode → Instr
  | some .exact => .encTExact
  | some .nearest | some .trunc | none => .encTNearest

/-- `ENC.S mode`; an absent mode is NEAREST (R98). -/
def spriteSource : Option ColourMode → Instr
  | some .exact => .encSExact
  | some .nearest | some .trunc | none => .encSNearest

/-- `ENC.B mode`; an absent mode is NEAREST (R98). -/
def bitmapSource : Option ColourMode → Instr
  | some .exact => .encBExact
  | some .trunc => .encBTrunc
  | some .nearest | none => .encBNearest

/-- The commands a well-formed line stands for (R97, R98). -/
def expandLine : Source → List Instr
  | .endCmd => [.endCmd]
  | .qnt r g b => [.qnt (BitVec.ofNat 8 r) (BitVec.ofNat 8 g) (BitVec.ofNat 8 b)]
  | .xlt r g b => [.xlt (BitVec.ofNat 8 r) (BitVec.ofNat 8 g) (BitVec.ofNat 8 b)]
  | .t332 r g b => [.t332 (BitVec.ofNat 8 r) (BitVec.ofNat 8 g) (BitVec.ofNat 8 b)]
  | .hwb idx => [.hwb (BitVec.ofNat 4 idx)]
  | .encT m => [tileSource m]
  | .encS m => [spriteSource m]
  | .encB m => [bitmapSource m]
  | .bank => [.bank]
  | .page base size => [.page (BitVec.ofNat 8 base) (BitVec.ofNat 16 (size.getD 0))]
  | .emitH => [.emitH]
  | .emitA => [.emitA]
  | .exportTiles => [.encTNearest, .emitH, .endCmd]
  | .exportSprites => [.encSNearest, .emitH, .endCmd]
  | .exportScreen => [.encBNearest, .bank, .emitH, .endCmd]
  | .exportPaged base => [.encBTrunc, .page (BitVec.ofNat 8 base) 0, .emitA, .endCmd]

/-- The commands of a line; an operand out of its range is an assembler error (R97). -/
def assembleSource (l : Source) : Option (List Instr) := if l.wellFormed then some (expandLine l) else none

/-- A character between words. -/
def isBlank (c : Char) : Bool := decide (c = ' ') || decide (c = '\t')

/-- A text without its leading and trailing blanks. -/
def trimBlanks (l : List Char) : List Char := ((l.dropWhile isBlank).reverse.dropWhile isBlank).reverse

/-- The parts between commas. -/
def splitCommas : List Char → List (List Char)
  | [] => [[]]
  | c :: cs =>
    match decide (c = ','), splitCommas cs with
    | true, ws => [] :: ws
    | false, [] => [[c]]
    | false, w :: ws => (c :: w) :: ws

/-- The value of a digit, if it is below the radix. -/
def digitValue (radix : Nat) (c : Char) : Option Nat :=
  let n := c.toNat
  let d := if 48 ≤ n ∧ n ≤ 57 then n - 48 else if 65 ≤ n ∧ n ≤ 70 then n - 55
    else if 97 ≤ n ∧ n ≤ 102 then n - 87 else 16
  if d < radix then some d else none

/-- The value of a non-empty row of digits, continuing from `acc`. -/
def digitsValue (radix : Nat) : Nat → List Char → Option Nat
  | acc, [] => some acc
  | acc, c :: cs => (digitValue radix c).bind fun d => digitsValue radix (acc * radix + d) cs

/-- A number: decimal, or hexadecimal after `0x` (R97). -/
def parseNumber : List Char → Option Nat
  | [] => none
  | '0' :: 'x' :: c :: cs => digitsValue 16 0 (c :: cs)
  | c :: cs => digitsValue 10 0 (c :: cs)

/-- A mode name, upper case (R97). -/
def parseMode (w : List Char) : Option ColourMode :=
  if w = "NEAREST".toList then some .nearest
  else if w = "EXACT".toList then some .exact
  else if w = "TRUNC".toList then some .trunc
  else none

/-- An optional mode operand (R97, R98). -/
def parseEncode (c : Option ColourMode → Source) : List (List Char) → Option Source
  | [] => some (c none)
  | [m] => (parseMode m).map fun m => c (some m)
  | _ :: _ :: _ => none

/-- Three channels (R97). -/
def parseColour (c : Nat → Nat → Nat → Source) : List (List Char) → Option Source
  | [r, g, b] => do return c (← parseNumber r) (← parseNumber g) (← parseNumber b)
  | _ => none

/-- No operand (R97). -/
def parseBare (c : Source) : List (List Char) → Option Source
  | [] => some c
  | _ :: _ => none

/-- One number (R97). -/
def parseOne (c : Nat → Source) : List (List Char) → Option Source
  | [n] => (parseNumber n).map c
  | _ => none

/-- `PAGE base, size` or `PAGE base` (R97, R98). -/
def parsePage : List (List Char) → Option Source
  | [base] => (parseNumber base).map fun n => .page n none
  | [base, size] => do return .page (← parseNumber base) (some (← parseNumber size))
  | _ => none

/-- A mnemonic, upper case, with its operands (R97, R98). -/
def parseOperation (mn : List Char) (ops : List (List Char)) : Option Source :=
  if mn = "END".toList then parseBare .endCmd ops
  else if mn = "QNT".toList then parseColour .qnt ops
  else if mn = "XLT".toList then parseColour .xlt ops
  else if mn = "T332".toList then parseColour .t332 ops
  else if mn = "HWB".toList then parseOne .hwb ops
  else if mn = "ENC.T".toList then parseEncode .encT ops
  else if mn = "ENC.S".toList then parseEncode .encS ops
  else if mn = "ENC.B".toList then parseEncode .encB ops
  else if mn = "BANK".toList then parseBare .bank ops
  else if mn = "PAGE".toList then parsePage ops
  else if mn = "EMIT.H".toList then parseBare .emitH ops
  else if mn = "EMIT.A".toList then parseBare .emitA ops
  else if mn = "EXPORT.TILES".toList then parseBare .exportTiles ops
  else if mn = "EXPORT.SPRITES".toList then parseBare .exportSprites ops
  else if mn = "EXPORT.SCREEN".toList then parseBare .exportScreen ops
  else if mn = "EXPORT.PAGED".toList then parseOne .exportPaged ops
  else none

/-- The words of one line: none for an empty or comment line, an error for anything R97 does not admit. `;` starts a
comment to the end of the line. -/
def assembleLine (line : String) : Option (List Word) :=
  let body := trimBlanks (line.toList.takeWhile fun c => decide (c ≠ ';'))
  if body = [] then some []
  else
    let mn := body.takeWhile fun c => !isBlank c
    let rest := trimBlanks (body.dropWhile fun c => !isBlank c)
    let ops := if rest = [] then [] else (splitCommas rest).map trimBlanks
    (parseOperation mn ops).bind fun l => (assembleSource l).map fun is => is.map encode

/-- The words of a program, one command a line (R97). -/
def assembleProgram : List String → Option (List Word)
  | [] => some []
  | l :: ls => do return (← assembleLine l) ++ (← assembleProgram ls)

end Sys2Proof.Machine
end

