-- ==== Sys2Proof/Safety.lean ====
section
/-! DEFINITION. What counts as a good state of the unit: its four conditions (10_state.md R43), how an export ends
(R49), and the invariant of every state a run or the host can reach. -/

namespace Sys2Proof.Machine

open Sys2Proof

/-- The four conditions of the unit (R43). -/
inductive Condition where
  | idle
  | running
  | finished
  | faulted
deriving DecidableEq, Repr

/-- The condition RUN, DONE and FAULT describe; `none` for a combination R43 says is not reachable. -/
def State.condition (s : State) : Option Condition :=
  match s.run, s.done, s.fault with
  | false, false, .none => some .idle
  | true, false, .none => some .running
  | false, true, .none => some .finished
  | _, _, .none => none
  | false, false, _ => some .faulted
  | _, _, _ => none

/-- The export ended well: the unit is FINISHED, and RES, FLAT, UNITS and TXT are results (R49). -/
abbrev State.EndedWell (s : State) : Prop := s.condition = some .finished

/-- The export ended badly: the unit is FAULTED, and only FAULT, FINFO and `pc` may be relied on (R49, R292). -/
abbrev State.EndedBadly (s : State) : Prop := s.condition = some .faulted

/-- `HWB_TRUNC` (40_palette_quantizer.md R131): an assumption a claim may name; no rule rests on it and no part of the
model does. -/
abbrev HwbTrunc (cfg : Config) : Prop := ∀ i : BitVec 4, cfg.hwbAt i = trunc332 (cfg.palAt i)

/-- `ENC.T` in a colour mode. -/
def tileCommand : IndexMode → Instr
  | .nearest => .encTNearest
  | .exact => .encTExact

/-- `ENC.S` in a colour mode. -/
def spriteCommand : IndexMode → Instr
  | .nearest => .encSNearest
  | .exact => .encSExact

/-- `ENC.B` in a colour mode. -/
def bitmapCommand : ColourMode → Instr
  | .nearest => .encBNearest
  | .exact => .encBExact
  | .trunc => .encBTrunc

/-- The "raised by" column of R281, `none` standing for an illegal word. -/
def raisedBy (c : FaultCode) (i : Option Instr) : Bool :=
  match c, i with
  | .illegalCommand, none => true
  | .inputNotFound, some i => i.isEncode
  | .dimensionConstraintViolation, some i => i.isEncode || i.isPartition
  | .sequenceViolation, some i => i.isPartition || i.isEmit
  | _, _ => false

/-- The length of a unit's bytes by kind (R37): 32, 256, 1 to 8192, or at least 1. -/
def unitLengthOk (k : UnitKind) (n : Nat) : Prop :=
  match k with
  | .tiles => n = 32
  | .sprites => n = 256
  | .banks => 1 ≤ n ∧ n ≤ 8192
  | .pages => 1 ≤ n ∧ n ≤ 65535

/-- Both memories are in canonical form and hold only cells that exist. -/
def State.MemoryOk (s : State) : Prop :=
  Memory.wf rasCapacity s.ras = true ∧ Memory.wf cmdDepth s.cmd = true

/-- `pc` never exceeds 256 (R25); RUN, DONE and FAULT are one of the four conditions (R43); FINFO is 0 with no fault
(R28) and otherwise a word whose execution can raise the fault that FAULT names (R281). -/
def State.ControlOk (s : State) : Prop :=
  s.pc.toNat ≤ 256 ∧ s.condition.isSome = true ∧
    (s.fault = .none → s.finfo = 0) ∧ (s.fault ≠ .none → raisedBy s.fault (decode s.finfo) = true)

/-- `FLAT` is empty without FV and of length 1 to 49152 with it (R36); during a run an encoded bitmap is that of the
valid raster the registers describe (R190, R218). -/
def State.FlatOk (s : State) : Prop :=
  (s.fv = false → s.flat = []) ∧
  (s.fv = true → 1 ≤ s.flat.length ∧ s.flat.length ≤ 49152) ∧
  (s.run = true → s.fv = true → s.rv = true ∧ s.dimsOk = true ∧ s.flat.length = s.rw.toNat * s.rh.toNat)

/-- `UNITS` and its attributes (R37): all zero without UV; otherwise `GCOLS × GROWS` units, each of its kind's length,
numbered in order from 0, or from a base of at most 255 for pages; banks and pages are all of `FLAT` (R212(d)); during
a run the grid of tiles and sprites is that of the raster. -/
def State.UnitsOk (s : State) : Prop :=
  (s.uv = false → s.units = [] ∧ s.ukind = .tiles ∧ s.gcols = 0 ∧ s.grows = 0) ∧
  s.units.length = s.gcols.toNat * s.grows.toNat ∧
  (∀ u ∈ s.units, unitLengthOk s.ukind u.bytes.length) ∧
  (∃ base ≤ 255, (s.ukind ≠ .pages → base = 0) ∧
    ∀ k u, s.units[k]? = some u → u.num.toNat = base + k) ∧
  (s.uv = true → s.ukind = .banks ∨ s.ukind = .pages →
    s.fv = true ∧ s.gcols = 1 ∧ s.units.flatMap EncUnit.bytes = s.flat) ∧
  (s.run = true → s.uv = true → s.ukind = .tiles →
    s.gcols.toNat = s.rw.toNat / 8 ∧ s.grows.toNat = s.rh.toNat / 8) ∧
  (s.run = true → s.uv = true → s.ukind = .sprites →
    s.gcols.toNat = s.rw.toNat / 16 ∧ s.grows.toNat = s.rh.toNat / 16)

/-- `TXT` is empty without TV (R38) and with it a text of the present units (R39): a header text, or an assembler text
of pages. -/
def State.TextOk (s : State) : Prop :=
  (s.tv = false → s.txt = []) ∧
  (s.tv = true → s.uv = true ∧
    ((∃ w h, s.txt = headerText s.cfg.name s.ukind w h s.units) ∨
      (s.ukind = .pages ∧ s.txt = asmText s.cfg.name s.units)))

/-- The configuration is one the spec admits: PAL has its three known entries and no two others alike
(40_palette_quantizer.md R120, 00_scope.md R10), NAME is a name (00_scope.md R12). -/
def State.ConfigOk (s : State) : Prop := s.cfg.PalAdmitted ∧ s.cfg.NameAdmitted

/-- The invariant: it holds at reset and every step keeps it. -/
structure State.Inv (s : State) : Prop where
  config : s.ConfigOk
  memory : s.MemoryOk
  control : s.ControlOk
  flat : s.FlatOk
  units : s.UnitsOk
  text : s.TextOk

end Sys2Proof.Machine
end

