-- ==== Sys2Proof/Certificates/Slice0/Obligations.lean ====
section
/-! DEFINITION. The statements for the provers. Each docstring names the rule of spec/ it formalises. -/

open Sys2Proof Sys2Proof.Machine

/-! ## Encoding (30_encoding.md) -/

/-- R90, R91, R93, R95: decoding the word of a command gives the command back, with every operand at every value. -/
def Obligations.DecodeOfEncode : Prop := ∀ i : Instr, decode (encode i) = some i

/-- R93, R95: each legal word is the word of the command it decodes to; no bit of a legal word is ignored. -/
def Obligations.EncodeOfDecode : Prop := ∀ (w : Word) (i : Instr), decode w = some i → encode i = w

/-- R93: a word is the command of a row exactly when `w & mask = match`, and the rows are disjoint. -/
def Obligations.DecodeFollowsOpcodeTable : Prop :=
  (∀ (w : Word), ∀ r ∈ opcodeTable, w &&& r.2.2 = r.2.1 ↔ ∃ i, decode w = some i ∧ i.mnemonic = r.1) ∧
  (∀ (w : Word), ∀ r ∈ opcodeTable, ∀ r' ∈ opcodeTable, w &&& r.2.2 = r.2.1 → w &&& r'.2.2 = r'.2.1 → r = r')

/-- R94: every word that matches no row is illegal; the words of (a) to (g) are such; executing one raises
IllegalCommand and changes nothing else. -/
def Obligations.IllegalWordsRaise : Prop :=
  (∀ w : Word, decode w = none ↔ ∀ r ∈ opcodeTable, w &&& r.2.2 ≠ r.2.1) ∧
  (∀ w : Word, w.toNat / 2 ^ 24 ∉ [0x00, 0x01, 0x02, 0x03, 0x04, 0x10, 0x20, 0x21, 0x30, 0x31] → decode w = none) ∧
  (∀ w : Word, w.toNat / 2 ^ 24 ∈ [0x00, 0x20, 0x30, 0x31] → w.toNat % 2 ^ 24 ≠ 0 → decode w = none) ∧
  (∀ w : Word, w.toNat / 2 ^ 24 = 0x04 → w.toNat / 2 ^ 4 % 2 ^ 20 ≠ 0 → decode w = none) ∧
  (∀ w : Word, w.toNat / 2 ^ 24 = 0x10 →
    (w.toNat / 2 ^ 10 % 2 ^ 14 ≠ 0 ∨ w.toNat / 2 ^ 2 % 2 ^ 6 ≠ 0 ∨ w.toNat / 2 ^ 8 % 4 = 3 ∨ w.toNat % 4 = 3 ∨
      (w.toNat % 4 = 2 ∧ w.toNat / 2 ^ 8 % 4 ≠ 2)) → decode w = none) ∧
  (∀ s : State, s.run = true → decode s.fetch = none →
    step s = .next { s with fault := .illegalCommand, finfo := s.fetch, run := false })

/-- 30_encoding.md R93 and 95_test_vectors.md section 3.7: a word of each command, written out, and what it stands for;
and an illegal one. -/
def Obligations.SampleWordsDecode : Prop :=
  decode 0x00000000 = some .endCmd ∧ decode 0x01ABCDEF = some (.qnt 171 205 239) ∧
  decode 0x02ABCDEF = some (.xlt 171 205 239) ∧ decode 0x03ABCDEF = some (.t332 171 205 239) ∧
  decode 0x0400000F = some (.hwb 15) ∧ decode 0x10000000 = some .encTNearest ∧ decode 0x10000001 = some .encTExact ∧
  decode 0x10000100 = some .encSNearest ∧ decode 0x10000101 = some .encSExact ∧
  decode 0x10000200 = some .encBNearest ∧ decode 0x10000201 = some .encBExact ∧ decode 0x10000202 = some .encBTrunc ∧
  decode 0x20000000 = some .bank ∧ decode 0x21280014 = some (.page 40 20) ∧ decode 0x30000000 = some .emitH ∧
  decode 0x31000000 = some .emitA ∧ decode 0x10000002 = none

/-! ## The step (46_control.md, 10_state.md) -/

/-- R271, R25, R35: while RUN = 1 a step executes the command whose word `CMD` holds at `pc`; at an index of 256 or
above the word fetched is `0xFFFFFFFF`, which is illegal. -/
def Obligations.StepRunsFetchedCommand : Prop :=
  (∀ (s : State) (i : Instr), s.run = true → s.pc.toNat < 256 → decode (s.cmd.read s.pc.toNat) = some i →
    step s = exec i s) ∧
  (∀ s : State, s.run = true → 256 ≤ s.pc.toNat →
    step s = .next { s with fault := .illegalCommand, finfo := 0xFFFFFFFF, run := false })

/-- R271 (a step of the sequencer is enabled exactly when RUN = 1). What happens instead is the model's choice (logs 4
and 5): the host's oldest pending move, and with none pending the stop `notRunning`. -/
def Obligations.StepWithoutRunIsHostTurn : Prop :=
  (∀ s : State, s.run = false → s.host = [] → step s = .fault .notRunning) ∧
  (∀ (s : State) (m : HostMove) (rest : List HostMove), s.run = false → s.host = m :: rest →
    step s = hostMove m { s with host := rest })

/-- R271 ("a command either performs all of its writes or, on a fault, none of them"): every command answers a next
state, from every state. -/
def Obligations.EveryCommandAnswersNext : Prop := ∀ (i : Instr) (s : State), ∃ t, exec i s = .next t

/-- R25: END and a faulting command leave `pc`; every other command adds 1; START sets it to 0; the fetch at 256 faults
with `pc` still 256; no step takes `pc` above 256. -/
def Obligations.ProgramCounterRule : Prop :=
  (∀ (s t : State), exec .endCmd s = .next t → t.pc = s.pc) ∧
  (∀ (i : Instr) (s t : State), i ≠ .endCmd → exec i s = .next t →
    (t.pc = s.pc + 1 ∧ t.run = s.run ∧ t.fault = s.fault) ∨ (t.pc = s.pc ∧ t.run = false ∧ t.fault ≠ .none)) ∧
  (∀ s : State, s.start.pc = 0) ∧
  (∀ s t : State, s.run = true → s.pc = 256 → step s = .next t → t.pc = 256 ∧ t.run = false ∧ t.fault = .illegalCommand) ∧
  (∀ s t : State, s.pc.toNat ≤ 256 → step s = .next t → t.pc.toNat ≤ 256)

/-- R46: no command writes RAS, RW, RH, RV, CMD or the configuration; every byte of the raster and every command word
reads as before. -/
def Obligations.CommandsKeepHostState : Prop :=
  ∀ (i : Instr) (s t : State), exec i s = .next t →
    t.ras = s.ras ∧ t.rw = s.rw ∧ t.rh = s.rh ∧ t.rv = s.rv ∧ t.cmd = s.cmd ∧ t.cfg = s.cfg ∧
      (∀ a, t.ras.read a = s.ras.read a) ∧ (∀ a, t.cmd.read a = s.cmd.read a)

/-- R31 to R33, R42: the configuration never changes, whatever the sequencer or the host does. -/
def Obligations.NoStepChangesConfiguration : Prop := ∀ s t : State, step s = .next t → t.cfg = s.cfg

/-- R49, R271: every export ends: from any running state, within 257 steps RUN is 0. -/
def Obligations.EveryExportEnds : Prop :=
  ∀ s : State, s.run = true →
    ∃ (k : Nat) (t : State), k ≤ 257 - min s.pc.toNat 256 ∧
      Host.Core.run Sys2Proof.core k s = .next t ∧ t.run = false

/-- R273: END sets DONE and clears RUN, and changes nothing else; a word with opcode 0 and a payload is not END. -/
def Obligations.EndCommand : Prop :=
  (∀ s : State, exec .endCmd s = .next { s with run := false, done := true }) ∧
  decode 0x00000000 = some .endCmd ∧
  (∀ w : Word, decode w = some .endCmd → w = 0) ∧
  (∀ s t : State, s.run = true → s.pc = 0 → s.cmd = [] → s.fault = .none → step s = .next t →
    t.EndedWell ∧ t.pc = 0)

/-! ## Faults (60_exceptions.md) -/

/-- R291: a command that faults writes FAULT, FINFO (its own word) and RUN, and nothing else; so does the step that
fetches its word, or an illegal one, and the unit is then FAULTED. -/
def Obligations.FaultsArePrecise : Prop :=
  (∀ (i : Instr) (s t : State), s.fault = .none → exec i s = .next t → t.fault ≠ .none →
    t = { s with fault := t.fault, finfo := encode i, run := false }) ∧
  (∀ s t : State, s.run = true → s.done = false → s.fault = .none → step s = .next t → t.fault ≠ .none →
    t = { s with fault := t.fault, finfo := s.fetch, run := false } ∧ t.condition = some .faulted)

/-- R281: the faults and the commands that raise them; the scalar commands and END raise none. -/
def Obligations.FaultsByCommand : Prop :=
  ∀ (i : Instr) (s t : State), s.fault = .none → exec i s = .next t → t.fault ≠ .none →
    (t.fault = .inputNotFound ∧ i.isEncode = true) ∨
    (t.fault = .dimensionConstraintViolation ∧ (i.isEncode = true ∨ i.isPartition = true)) ∨
    (t.fault = .sequenceViolation ∧ (i.isPartition = true ∨ i.isEmit = true))

/-- R283, R284(a), R289: an encode command without a raster raises InputNotFound, and with one whose dimensions are out
of range DimensionConstraintViolation; only those states fault it. -/
def Obligations.EncodeFaults : Prop :=
  ∀ (i : Instr) (s : State), i.isEncode = true →
    (s.rv = false → exec i s = .next { s with fault := .inputNotFound, finfo := encode i, run := false }) ∧
    (s.rv = true → (s.rw.toNat < 1 ∨ 256 < s.rw.toNat ∨ s.rh.toNat < 1 ∨ 192 < s.rh.toNat) →
      exec i s = .next { s with fault := .dimensionConstraintViolation, finfo := encode i, run := false }) ∧
    (s.rv = true → 1 ≤ s.rw.toNat → s.rw.toNat ≤ 256 → 1 ≤ s.rh.toNat → s.rh.toNat ≤ 192 →
      ∃ t, exec i s = .next t ∧ t.fault = s.fault ∧ t.run = s.run)

/-- R215, R287, R289: BANK and PAGE without a bitmap raise SequenceViolation, and with one of a raster not 192 high
DimensionConstraintViolation. -/
def Obligations.PartitionFaults : Prop :=
  ∀ (i : Instr) (s : State), i.isPartition = true →
    (s.fv = false → exec i s = .next { s with fault := .sequenceViolation, finfo := encode i, run := false }) ∧
    (s.fv = true → s.rh.toNat ≠ 192 →
      exec i s = .next { s with fault := .dimensionConstraintViolation, finfo := encode i, run := false })

/-- R287: EMIT.H without units, and EMIT.A without pages, raise SequenceViolation. -/
def Obligations.EmitFaults : Prop :=
  (∀ s : State, s.uv = false →
    exec .emitH s = .next { s with fault := .sequenceViolation, finfo := 0x30000000, run := false }) ∧
  (∀ s : State, (s.uv = false ∨ s.ukind ≠ .pages) →
    exec .emitA s = .next { s with fault := .sequenceViolation, finfo := 0x31000000, run := false })

/-! ## Colour functions and scalar commands (40_palette_quantizer.md) -/

/-- R124: the index `Quantize` returns has the least squared distance, and is the lowest index that has it. -/
def Obligations.QuantizeIsNearestLowest : Prop :=
  ∀ (cfg : Config) (c : Rgb),
    let d : BitVec 4 → Int := fun i =>
      ((c.r.toNat : Int) - (cfg.palAt i).r.toNat) ^ 2 + ((c.g.toNat : Int) - (cfg.palAt i).g.toNat) ^ 2 +
        ((c.b.toNat : Int) - (cfg.palAt i).b.toNat) ^ 2
    (∀ j, d (quantize cfg c) ≤ d j) ∧ ∀ i, (∀ j, d i ≤ d j) → (quantize cfg c).toNat ≤ i.toNat

/-- R126: with `PAL[8] = PAL[0]`, `Quantize` never returns 8. -/
def Obligations.QuantizeNeverEight : Prop :=
  ∀ (cfg : Config) (c : Rgb), cfg.palAt 8 = cfg.palAt 0 → quantize cfg c ≠ 8

/-- R127: `Quantize(PAL[i])` is the least `j` with `PAL[j] = PAL[i]`; for an admitted palette that is `i` for every `i`
but 8, and 0 for 8; in every case the colour is its own. -/
def Obligations.QuantizeOfPaletteColour : Prop :=
  (∀ (cfg : Config) (i : BitVec 4), cfg.palAt (quantize cfg (cfg.palAt i)) = cfg.palAt i ∧
    ∀ j, cfg.palAt j = cfg.palAt i → (quantize cfg (cfg.palAt i)).toNat ≤ j.toNat) ∧
  (∀ cfg : Config, cfg.PalAdmitted →
    quantize cfg (cfg.palAt 8) = 0 ∧ ∀ i : BitVec 4, i ≠ 8 → quantize cfg (cfg.palAt i) = i)

/-- R128: `ExactLookup` returns the first palette entry equal to the colour, and 0 when there is none; for black it is
0. -/
def Obligations.ExactLookupFirstMatch : Prop :=
  (∀ (cfg : Config) (c : Rgb) (i : BitVec 4), cfg.palAt i = c →
    cfg.palAt (exactLookup cfg c) = c ∧ (exactLookup cfg c).toNat ≤ i.toNat) ∧
  (∀ (cfg : Config) (c : Rgb), (∀ i, cfg.palAt i ≠ c) → exactLookup cfg c = 0) ∧
  (∀ cfg : Config, cfg.palAt 0 = black → exactLookup cfg black = 0)

/-- R129: on an exact palette colour the two functions agree; on any other colour `ExactLookup` is 0, as it is for
black, while `Quantize` is the nearest index. -/
def Obligations.ExactLookupAgreesWithQuantize : Prop :=
  (∀ (cfg : Config) (c : Rgb) (i : BitVec 4), cfg.palAt i = c → exactLookup cfg c = quantize cfg c) ∧
  (∀ (cfg : Config) (c : Rgb), (∀ i, cfg.palAt i ≠ c) →
    exactLookup cfg c = 0 ∧ ∀ j, sqDist (cfg.palAt (quantize cfg c)) c ≤ sqDist (cfg.palAt j) c)

/-- R130: result bits 7:5, 4:2, 1:0 are the top bits of red, green, blue; as a number `32·(r div 32) + 4·(g div 32) +
b div 64`. -/
def Obligations.Trunc332Bits : Prop :=
  ∀ c : Rgb, (trunc332 c).extractLsb' 5 3 = c.r.extractLsb' 5 3 ∧
    (trunc332 c).extractLsb' 2 3 = c.g.extractLsb' 5 3 ∧ (trunc332 c).extractLsb' 0 2 = c.b.extractLsb' 6 2 ∧
    (trunc332 c).toNat = 32 * (c.r.toNat / 32) + 4 * (c.g.toNat / 32) + c.b.toNat / 64

/-- R134: each scalar command writes RES and nothing else, then `pc <- pc + 1`, from every state. -/
def Obligations.ScalarCommands : Prop :=
  ∀ (s : State) (r g b : Byte) (idx : BitVec 4),
    exec (.qnt r g b) s = .next { s with res := (quantize s.cfg ⟨r, g, b⟩).setWidth 8, pc := s.pc + 1 } ∧
    exec (.xlt r g b) s = .next { s with res := (exactLookup s.cfg ⟨r, g, b⟩).setWidth 8, pc := s.pc + 1 } ∧
    exec (.t332 r g b) s = .next { s with res := trunc332 ⟨r, g, b⟩, pc := s.pc + 1 } ∧
    exec (.hwb idx) s = .next { s with res := s.cfg.hwbAt idx, pc := s.pc + 1 }

/-- R22: only the scalar commands write RES; for QNT and XLT bits 7:4 are zero; no command reads RES (its value changes
nothing but itself); reset and START write 0; the host reads it as register 3. -/
def Obligations.ResRegister : Prop :=
  (∀ (i : Instr) (s t : State), i.isScalar = false → exec i s = .next t → t.res = s.res) ∧
  (∀ (s t : State) (r g b : Byte), (exec (.qnt r g b) s = .next t ∨ exec (.xlt r g b) s = .next t) →
    t.res.extractLsb' 4 4 = 0) ∧
  (∀ (i : Instr) (s t : State) (v : Byte), exec i s = .next t →
    ∃ t', exec i { s with res := v } = .next t' ∧ { t' with res := t.res } = t ∧
      (i.isScalar = true → t'.res = t.res)) ∧
  State.reset.res = 0 ∧ (∀ s : State, s.start.res = 0) ∧
  (∀ s : State, s.run = false → s.hostRead (.reg 3) = some (s.res.setWidth 32))

/-! ## Tiles (41_tile.md) -/

/-- R133, R150: a tile has 32 bytes; byte `4y + j` holds the pixels of row `y` at columns `2j` (bits 7:4) and `2j + 1`
(bits 3:0), as palette indices: under NEAREST the index is `Quantize` of the pixel's colour, under EXACT `ExactLookup`. -/
def Obligations.TileBlockLayout : Prop :=
  ∀ (m : IndexMode) (index : Rgb → BitVec 4) (s : State) (x0 y0 : Nat),
    (m = .nearest ∧ index = quantize s.cfg) ∨ (m = .exact ∧ index = exactLookup s.cfg) →
    resolve m s.cfg = index ∧ (tileBlock m s x0 y0).length = 32 ∧
    ∀ y j, y < 8 → j < 4 → ∃ v, (tileBlock m s x0 y0)[4 * y + j]? = some v ∧
      v.extractLsb' 4 4 = index (s.pixel (x0 + 2 * j) (y0 + y)).rgb ∧
      v.extractLsb' 0 4 = index (s.pixel (x0 + 2 * j + 1) (y0 + y)).rgb

/-- R152: a block filled with `PAL[c]` unpacks at every position to the least index holding that colour: `c` itself for
an admitted palette and `c` other than 8, and 0 for 8; all 32 bytes are that pair. -/
def Obligations.TileRoundTrip : Prop :=
  ∀ (m : IndexMode) (s : State) (x0 y0 : Nat) (c : BitVec 4),
    (∀ x y, x < 8 → y < 8 → (s.pixel (x0 + x) (y0 + y)).rgb = s.cfg.palAt c) →
    ∃ q : BitVec 4, s.cfg.palAt q = s.cfg.palAt c ∧ (∀ j, s.cfg.palAt j = s.cfg.palAt c → q.toNat ≤ j.toNat) ∧
      tileBlock m s x0 y0 = List.replicate 32 (q ++ q : BitVec 8) ∧
      (s.cfg.PalAdmitted → (c ≠ 8 → q = c) ∧ (c = 8 → q = 0))

/-- R153, R155, R156: with a valid raster in range ENC.T produces the tiles of the whole blocks, in row-major order and
numbered so, sets UV, UKIND, GCOLS, GROWS, drops FLAT and TXT, and changes nothing else. -/
def Obligations.EncodeTilesResult : Prop :=
  ∀ (m : IndexMode) (s : State), s.rv = true → 1 ≤ s.rw.toNat → s.rw.toNat ≤ 256 → 1 ≤ s.rh.toNat →
    s.rh.toNat ≤ 192 →
    ∃ u : List EncUnit,
      exec (tileCommand m) s = .next { s with
        units := u, uv := true, ukind := .tiles, gcols := BitVec.ofNat 16 (s.rw.toNat / 8),
        grows := BitVec.ofNat 16 (s.rh.toNat / 8), flat := [], fv := false, txt := [], tv := false, pc := s.pc + 1 } ∧
      u.length = (s.rw.toNat / 8) * (s.rh.toNat / 8) ∧
      ∀ tc tr, tc < s.rw.toNat / 8 → tr < s.rh.toNat / 8 →
        u[tr * (s.rw.toNat / 8) + tc]? =
          some ⟨BitVec.ofNat 16 (tr * (s.rw.toNat / 8) + tc), tileBlock m s (8 * tc) (8 * tr)⟩

/-! ## Sprites (42_sprite.md) -/

/-- R170: a sprite has 256 bytes; byte `16y + x` is the pixel at column `x`, row `y`: the sentinel for alpha below 128,
else the raw palette index, under NEAREST `Quantize` of the pixel's colour, under EXACT `ExactLookup` (R171, R133); HWB is
not read. -/
def Obligations.SpriteBlockLayout : Prop :=
  (∀ (m : IndexMode) (index : Rgb → BitVec 4) (s : State) (x0 y0 : Nat),
    (m = .nearest ∧ index = quantize s.cfg) ∨ (m = .exact ∧ index = exactLookup s.cfg) →
    (spriteBlock m s x0 y0).length = 256 ∧
    ∀ y x, y < 16 → x < 16 → (spriteBlock m s x0 y0)[16 * y + x]? =
      some (if (s.pixel (x0 + x) (y0 + y)).a.toNat < 128 then 0xE3
        else (index (s.pixel (x0 + x) (y0 + y)).rgb).setWidth 8)) ∧
  (∀ (m : IndexMode) (s : State) (x0 y0 : Nat) (h : Vector Byte 16),
    spriteBlock m { s with cfg := { s.cfg with hwb := h } } x0 y0 = spriteBlock m s x0 y0)

/-- R173: a sprite byte is 0 to 15 but never 8, or 0xE3; it is 0xE3 exactly for a transparent pixel, whatever its RGB. -/
def Obligations.SpriteByteValues : Prop :=
  ∀ (m : IndexMode) (cfg : Config) (p : Pixel), cfg.palAt 8 = cfg.palAt 0 →
    (spritePixel m cfg p = 0xE3 ↔ p.a.toNat < 128) ∧
    (spritePixel m cfg p = 0xE3 ∨ (spritePixel m cfg p).toNat < 16) ∧ spritePixel m cfg p ≠ 8

/-- R174, R176, R177: with a valid raster in range ENC.S produces the sprites of the whole blocks, in row-major order
and numbered so, sets UV, UKIND, GCOLS, GROWS, drops FLAT and TXT, and changes nothing else. -/
def Obligations.EncodeSpritesResult : Prop :=
  ∀ (m : IndexMode) (s : State), s.rv = true → 1 ≤ s.rw.toNat → s.rw.toNat ≤ 256 → 1 ≤ s.rh.toNat →
    s.rh.toNat ≤ 192 →
    ∃ u : List EncUnit,
      exec (spriteCommand m) s = .next { s with
        units := u, uv := true, ukind := .sprites, gcols := BitVec.ofNat 16 (s.rw.toNat / 16),
        grows := BitVec.ofNat 16 (s.rh.toNat / 16), flat := [], fv := false, txt := [], tv := false,
        pc := s.pc + 1 } ∧
      u.length = (s.rw.toNat / 16) * (s.rh.toNat / 16) ∧
      ∀ sc sr, sc < s.rw.toNat / 16 → sr < s.rh.toNat / 16 →
        u[sr * (s.rw.toNat / 16) + sc]? =
          some ⟨BitVec.ofNat 16 (sr * (s.rw.toNat / 16) + sc), spriteBlock m s (16 * sc) (16 * sr)⟩

/-! ## Bitmaps (43_bitmap.md) -/

/-- R190, R193 to R196: with a valid raster in range ENC.B produces one byte a pixel, byte `y·RW + x` for column `x`,
row `y`, sets FV, drops UNITS and TXT, and changes nothing else. -/
def Obligations.EncodeBitmapResult : Prop :=
  ∀ (m : ColourMode) (s : State), s.rv = true → 1 ≤ s.rw.toNat → s.rw.toNat ≤ 256 → 1 ≤ s.rh.toNat →
    s.rh.toNat ≤ 192 →
    ∃ f : List Byte,
      exec (bitmapCommand m) s = .next { s with
        flat := f, fv := true, units := [], uv := false, ukind := .tiles, gcols := 0, grows := 0, txt := [],
        tv := false, pc := s.pc + 1 } ∧
      f.length = s.rw.toNat * s.rh.toNat ∧
      ∀ x y, x < s.rw.toNat → y < s.rh.toNat →
        f[y * s.rw.toNat + x]? = some (bitmapByte m s.cfg (s.pixel x y).rgb)

/-- R191, R192: a bitmap byte is `HWB[Quantize]` under NEAREST, `HWB[ExactLookup]` under EXACT, `Trunc332` under TRUNC; so
under NEAREST and EXACT it is some `HWB[i]`, `i` other than 8; under TRUNC any byte can occur, also 0xE3. -/
def Obligations.BitmapByteValues : Prop :=
  (∀ (cfg : Config) (c : Rgb), bitmapByte .nearest cfg c = cfg.hwbAt (quantize cfg c) ∧
    bitmapByte .exact cfg c = cfg.hwbAt (exactLookup cfg c) ∧ bitmapByte .trunc cfg c = trunc332 c) ∧
  (∀ (cfg : Config) (c : Rgb), cfg.palAt 8 = cfg.palAt 0 →
    (∃ i, i ≠ 8 ∧ bitmapByte .nearest cfg c = cfg.hwbAt i) ∧ (∃ i, i ≠ 8 ∧ bitmapByte .exact cfg c = cfg.hwbAt i)) ∧
  (∀ (cfg : Config) (v : Byte), ∃ c, bitmapByte .trunc cfg c = v)

/-- R196 ("reads neither PAL nor HWB"): the bitmap of ENC.B TRUNC does not depend on the configuration. -/
def Obligations.TruncBitmapIgnoresConfiguration : Prop :=
  ∀ (s t : State) (cfg : Config), exec .encBTrunc s = .next t →
    exec .encBTrunc { s with cfg := cfg } = .next { t with cfg := cfg }

/-- R78, R64, R151, R190: an encoder depends on no pixel outside the blocks it covers, and ENC.T and ENC.B on no alpha:
two rasters alike on what is read give the same results. -/
def Obligations.EncodersReadOnlyTheirPixels : Prop :=
  (∀ (m : IndexMode) (s t : State) (ras : Memory 8),
    (∀ x y, x < 8 * (s.rw.toNat / 8) → y < 8 * (s.rh.toNat / 8) →
      (State.pixel { s with ras := ras } x y).rgb = (s.pixel x y).rgb) →
    exec (tileCommand m) s = .next t → exec (tileCommand m) { s with ras := ras } = .next { t with ras := ras }) ∧
  (∀ (m : IndexMode) (s t : State) (ras : Memory 8),
    (∀ x y, x < 16 * (s.rw.toNat / 16) → y < 16 * (s.rh.toNat / 16) →
      State.pixel { s with ras := ras } x y = s.pixel x y) →
    exec (spriteCommand m) s = .next t → exec (spriteCommand m) { s with ras := ras } = .next { t with ras := ras }) ∧
  (∀ (m : ColourMode) (s t : State) (ras : Memory 8),
    (∀ x y, x < s.rw.toNat → y < s.rh.toNat →
      (State.pixel { s with ras := ras } x y).rgb = (s.pixel x y).rgb) →
    exec (bitmapCommand m) s = .next t → exec (bitmapCommand m) { s with ras := ras } = .next { t with ras := ras })

/-! ## Partition (44_partition.md) -/

/-- R211, R212: `Split` of the empty array has no chunk; of another, the number and lengths of the chunks, each the exact
slice and numbered `base + k` (a number is 16 bits, and `base + k` is below 65536 for every partition a command makes,
R216); together they are the array, nothing added. -/
def Obligations.SplitChunks : Prop :=
  (∀ ps base : Nat, 1 ≤ ps → split [] ps base = []) ∧
  ∀ (f : List Byte) (ps base : Nat), 1 ≤ f.length → 1 ≤ ps →
    ∃ n, (split f ps base).length = n ∧ 1 ≤ n ∧ (n - 1) * ps < f.length ∧ f.length ≤ n * ps ∧
      (∀ k u, k + 1 < n → (split f ps base)[k]? = some u → u.bytes.length = ps) ∧
      (∀ u, (split f ps base)[n - 1]? = some u → u.bytes.length = f.length - (n - 1) * ps ∧
        u.bytes.length = (if f.length % ps = 0 then ps else f.length % ps) ∧ u.bytes ≠ []) ∧
      (split f ps base).flatMap EncUnit.bytes = f ∧
      ∀ k, k < n → ∃ u, (split f ps base)[k]? = some u ∧
        u.bytes = (f.drop (k * ps)).take (min ((k + 1) * ps) f.length - k * ps) ∧
        (base + k < 65536 → u.num.toNat = base + k)

/-- R211, R213, R218: with a bitmap of a raster 192 high BANK cuts FLAT into banks of 8192 bytes, the last truncated,
numbered from 0, in one column, drops TXT, and changes nothing else. Numbers are cut to 16 bits (log 14), which no
reachable FLAT needs. -/
def Obligations.BankResult : Prop :=
  ∀ s : State, s.fv = true → s.rh.toNat = 192 →
    ∃ u : List EncUnit,
      exec .bank s = .next { s with
        units := u, uv := true, ukind := .banks, gcols := 1, grows := BitVec.ofNat 16 u.length, txt := [],
        tv := false, pc := s.pc + 1 } ∧
      u.flatMap EncUnit.bytes = s.flat ∧ u.length = (s.flat.length + 8191) / 8192 ∧
      ∀ k b, u[k]? = some b → b.num = BitVec.ofNat 16 k ∧
        b.bytes.length = min 8192 (s.flat.length - k * 8192)

/-- R211, R216, R219: with a bitmap of a raster 192 high PAGE cuts FLAT into pages of the effective size, numbered from
`base` without wrap, in one column, drops TXT, and changes nothing else. GROWS is cut to 16 bits (log 14), which no
reachable FLAT needs. -/
def Obligations.PageResult : Prop :=
  ∀ (s : State) (base : Byte) (size : BitVec 16), s.fv = true → s.rh.toNat = 192 →
    ∃ (u : List EncUnit) (ps : Nat), ps = (if size = 0 then 8192 else size.toNat) ∧
      exec (.page base size) s = .next { s with
        units := u, uv := true, ukind := .pages, gcols := 1, grows := BitVec.ofNat 16 u.length, txt := [],
        tv := false, pc := s.pc + 1 } ∧
      u.flatMap EncUnit.bytes = s.flat ∧ u.length = (s.flat.length + ps - 1) / ps ∧
      (∀ k b, u[k]? = some b → b.bytes.length = min ps (s.flat.length - k * ps)) ∧
      (s.flat.length ≤ 49152 → ∀ k b, u[k]? = some b → b.num.toNat = base.toNat + k ∧ b.num.toNat ≤ 49406)

/-- R214: encoding a 256 by 192 raster and partitioning it gives exactly 6 banks of exactly 8192 bytes. -/
def Obligations.CanonicalBitmapSixBanks : Prop :=
  ∀ (m : ColourMode) (s : State), s.rv = true → s.rw.toNat = 256 → s.rh.toNat = 192 →
    ∃ t u, exec (bitmapCommand m) s = .next t ∧ exec .bank t = .next u ∧
      u.units.length = 6 ∧ ∀ b ∈ u.units, b.bytes.length = 8192

/-! ## Text (45_declaration.md) -/

/-- R231: `Dec(n)` is the decimal numeral of `n`: digits only, no leading zero, `Dec(0) = "0"`. -/
def Obligations.DecimalNumeral : Prop :=
  dec 0 = [48] ∧
  ∀ n, (dec n ≠ []) ∧ (∀ d ∈ dec n, 48 ≤ d.toNat ∧ d.toNat ≤ 57) ∧
    (dec n).foldl (fun a d => 10 * a + (d.toNat - 48)) 0 = n ∧ (0 < n → (dec n).head? ≠ some 48)

/-- R233: `Hex2(v)` is two hexadecimal digits, most significant first, upper case. -/
def Obligations.HexDigits : Prop :=
  ∀ v : Byte, hex2 v =
    [(ascii "0123456789ABCDEF").getD (v.toNat / 16) 0, (ascii "0123456789ABCDEF").getD (v.toNat % 16) 0]

/-- R232, R235: `Upper` on each byte; the kind words; a label is `NAME _ KindWord _ Dec(num)` and the table name
`NAME _ KindWord _table`; labels of units with different numbers differ, in every unit kind. -/
def Obligations.IdentifiersAndLabels : Prop :=
  (∀ t : List Byte, upper t = t.map fun v => if 97 ≤ v.toNat ∧ v.toNat ≤ 122 then v - 32 else v) ∧
  kindWord .tiles = [0x74, 0x69, 0x6C, 0x65] ∧ kindWord .sprites = [0x73, 0x70, 0x72, 0x69, 0x74, 0x65] ∧
  kindWord .banks = [0x62, 0x61, 0x6E, 0x6B] ∧ kindWord .pages = [0x70, 0x61, 0x67, 0x65] ∧
  (∀ (name : List Byte) (k : UnitKind) (num : BitVec 16),
    label name k num = name ++ [0x5F] ++ kindWord k ++ [0x5F] ++ dec num.toNat ∧
    tableName name k = name ++ [0x5F] ++ kindWord k ++ [0x5F, 0x74, 0x61, 0x62, 0x6C, 0x65]) ∧
  ∀ (name : List Byte) (k : UnitKind) (a b : BitVec 16), label name k a = label name k b → a = b

/-- R234: `Lines(B, n)` cuts `B` into chunks of `n` bytes, the last holding the rest; none for empty `B`; LPL is 8 for
tiles and 16 otherwise. -/
def Obligations.TextLines : Prop :=
  (∀ (b : List Byte) (n : Nat), n = 8 ∨ n = 16 →
    (textLines b n).flatten = b ∧ (textLines b n).length = (b.length + n - 1) / n ∧ (b = [] → textLines b n = []) ∧
    (∀ i c, (textLines b n)[i]? = some c → c = (b.drop (i * n)).take (min ((i + 1) * n) b.length - i * n)) ∧
    (∀ i c, i + 1 < (textLines b n).length → (textLines b n)[i]? = some c → c.length = n) ∧
    (b.length % n ≠ 0 → ∀ c, (textLines b n).getLast? = some c → c.length = b.length % n)) ∧
  (∀ k, lpl k = if k.code = 0 then 8 else 16)

/-- R240, R250 (and the writes of R245, R251): with units EMIT.H, and with pages EMIT.A, replaces TXT whole by its text,
spelled out here, sets TV, and changes nothing else. `U` is `Upper(NAME)`, `lab` a unit's label (R232), `kw` the kind word
(R235); entry `i` of the table is the label of unit `i` (R243). 0x7B and 0x7D are the braces. -/
def Obligations.EmitCommands : Prop :=
  (∀ s : State, s.uv = true →
    let nl : List Byte := [0x0A]
    let u := upper s.cfg.name
    let kw := kindWord s.ukind
    let lab := fun e : EncUnit => s.cfg.name ++ ascii "_" ++ kw ++ ascii "_" ++ dec e.num.toNat
    let per := if s.ukind = .tiles then 8 else 16
    let row := fun c : List Byte => (ascii ", ").intercalate (c.map fun v => ascii "0x" ++ hex2 v)
    let lines := fun l : List (List Byte) => l.zipIdx.flatMap fun x =>
      ascii "    " ++ x.1 ++ (if x.2 + 1 < l.length then ascii "," else []) ++ nl
    let text :=
      ascii "#ifndef " ++ u ++ ascii "_H" ++ nl ++ ascii "#define " ++ u ++ ascii "_H" ++ nl ++ nl ++
      ascii "#define " ++ u ++ ascii "_WIDTH " ++ dec s.rw.toNat ++ nl ++
      ascii "#define " ++ u ++ ascii "_HEIGHT " ++ dec s.rh.toNat ++ nl ++
      ascii "#define " ++ u ++ ascii "_SIZE " ++ dec (s.units.map fun e => e.bytes.length).sum ++ nl ++
      (if s.ukind = .banks ∨ s.ukind = .pages then s.units.flatMap fun e =>
        ascii "#define " ++ upper (lab e) ++ ascii "_SIZE " ++ dec e.bytes.length ++ nl else []) ++
      nl ++
      (s.units.flatMap fun e =>
        ascii "const unsigned char " ++ lab e ++ ascii "[" ++ dec e.bytes.length ++ ascii "] = " ++ [0x7B] ++ nl ++
        lines ((textLines e.bytes per).map row) ++ [0x7D] ++ ascii ";" ++ nl ++ nl) ++
      ascii "const unsigned char * const " ++ s.cfg.name ++ ascii "_" ++ kw ++ ascii "_table" ++ ascii "[" ++
      dec s.units.length ++ ascii "] = " ++ [0x7B] ++ nl ++ lines (s.units.map lab) ++ [0x7D] ++ ascii ";" ++ nl ++ nl ++
      ascii "#endif" ++ nl
    exec .emitH s = .next { s with txt := text, tv := true, pc := s.pc + 1 }) ∧
  (∀ s : State, s.uv = true → s.ukind = .pages →
    let nl : List Byte := [0x0A]
    let lab := fun e : EncUnit => s.cfg.name ++ ascii "_" ++ ascii "page" ++ ascii "_" ++ dec e.num.toNat
    let text := s.units.flatMap fun e =>
      ascii "SECTION PAGE_" ++ dec e.num.toNat ++ nl ++
      ascii "PUBLIC _" ++ lab e ++ nl ++
      ascii "defc _" ++ lab e ++ ascii "_size = " ++ dec e.bytes.length ++ nl ++
      ascii "_" ++ lab e ++ ascii ":" ++ nl ++
      ((textLines e.bytes 16).flatMap fun c =>
        ascii "    defb " ++ (ascii ", ").intercalate (c.map fun v => ascii "$" ++ hex2 v) ++ nl) ++
      nl
    exec .emitA s = .next { s with txt := text, tv := true, pc := s.pc + 1 })

/-- R244: the header text of zero tiles or sprites is parts (a), (b) with SIZE 0, (d), the table with `[0]` and no entry
lines, and (g), and EMIT.H emits it without fault. -/
def Obligations.HeaderTextOfZeroUnits : Prop :=
  ∀ s : State, s.uv = true → s.units = [] → s.ukind = .tiles ∨ s.ukind = .sprites →
    let u := upper s.cfg.name
    let text :=
      ascii "#ifndef " ++ u ++ ascii "_H\n#define " ++ u ++ ascii "_H\n\n#define " ++ u ++ ascii "_WIDTH " ++
        dec s.rw.toNat ++ ascii "\n#define " ++ u ++ ascii "_HEIGHT " ++ dec s.rh.toNat ++ ascii "\n#define " ++ u ++
        ascii "_SIZE 0\n\nconst unsigned char * const " ++ s.cfg.name ++
        ascii (if s.ukind = .tiles then "_tile_table[0] = " else "_sprite_table[0] = ") ++ [0x7B, 0x0A, 0x7D] ++
        ascii ";\n\n#endif\n"
    exec .emitH s = .next { s with txt := text, tv := true, pc := s.pc + 1 }

/-- R38, R240, R250, R12: both texts are ASCII, each byte a line end 0x0A or a printable character; so no carriage return
and no tab. -/
def Obligations.TextIsPrintable : Prop :=
  ∀ cfg : Config, cfg.NameAdmitted →
    (∀ kind rw rh units, ∀ v ∈ headerText cfg.name kind rw rh units, v = 0x0A ∨ (0x20 ≤ v.toNat ∧ v.toNat ≤ 0x7E)) ∧
    (∀ units, ∀ v ∈ asmText cfg.name units, v = 0x0A ∨ (0x20 ≤ v.toNat ∧ v.toNat ≤ 0x7E))

/-- R240, R250: how many lines the texts have. A header text: 7 fixed lines before the arrays, a size macro for each bank
or page, for each unit 3 framing lines and one for each 8 (tiles) or 16 bytes or rest, one table entry for each unit,
and 4 more. An assembler text: for each page 5 framing lines and one `defb` line for each 16 bytes or rest. -/
def Obligations.TextLineCounts : Prop :=
  ∀ (cfg : Config) (units : List EncUnit), cfg.NameAdmitted →
    (∀ kind rw rh, (headerText cfg.name kind rw rh units).count 0x0A =
      7 + (if kind = .banks ∨ kind = .pages then units.length else 0) +
        (units.map fun u => 3 + (u.bytes.length + lpl kind - 1) / lpl kind).sum + (units.length + 4)) ∧
    (asmText cfg.name units).count 0x0A = (units.map fun u => 5 + (u.bytes.length + 15) / 16).sum

/-! ## Artefacts (10_state.md R36 to R39) -/

/-- R36 to R39: which commands write which artefact. The scalar commands and END write none; partition and emit keep
FLAT, emit keeps UNITS; a command that completes and replaces FLAT or UNITS leaves no text. -/
def Obligations.ArtefactWriters : Prop :=
  ∀ (i : Instr) (s t : State), s.fault = .none → exec i s = .next t →
    (i.isEncode = false → t.flat = s.flat ∧ t.fv = s.fv) ∧
    (i.isEncode = false → i.isPartition = false →
      t.units = s.units ∧ t.uv = s.uv ∧ t.ukind = s.ukind ∧ t.gcols = s.gcols ∧ t.grows = s.grows) ∧
    (i.isEncode = false → i.isPartition = false → i.isEmit = false → t.txt = s.txt ∧ t.tv = s.tv) ∧
    (i.isEncode = true ∨ i.isPartition = true → t.fault = .none → t.txt = [] ∧ t.tv = false) ∧
    (i.isEmit = true → t.fault = .none → t.tv = true)

/-! ## The host's side (10_state.md, 20_memory.md) -/

/-- R45: START sets what the rule lists and leaves RV, RW, RH, RAS and CMD. -/
def Obligations.StartAction : Prop :=
  ∀ (s : State) (v : Word), s.run = false → v.getLsbD 0 = true → v.getLsbD 1 = false →
    hostMove (.writeReg 0 v) s = .next { s with
      pc := 0, run := true, done := false, fault := .none, finfo := 0, res := 0, fv := false, uv := false,
      tv := false, ukind := .tiles, gcols := 0, grows := 0, flat := [], units := [], txt := [] }

/-- R45, R39, R327: nothing an earlier export produced is visible after START: two units alike in what the host set
become equal. -/
def Obligations.StartForgetsEarlierExports : Prop :=
  ∀ s s' : State, s.cfg = s'.cfg → s.rv = s'.rv → s.rw = s'.rw → s.rh = s'.rh → s.ras = s'.ras → s.cmd = s'.cmd →
    s.host = s'.host → s.resets = s'.resets → s.start = s'.start

/-- R27: CTRL. START and RESET act only while RUN = 0; RESET wins over START; other bits are ignored; CTRL reads 0. -/
def Obligations.ControlRegister : Prop :=
  (∀ (s : State) (v : Word), s.run = true → hostMove (.writeReg 0 v) s = .next s) ∧
  (∀ (s : State) (v : Word), s.run = false → v.getLsbD 1 = true → hostMove (.writeReg 0 v) s = .next s.resetAction) ∧
  (∀ (s : State) (v : Word), s.run = false → v.getLsbD 1 = false → v.getLsbD 0 = true →
    hostMove (.writeReg 0 v) s = .next s.start) ∧
  (∀ (s : State) (v : Word), s.run = false → v.getLsbD 1 = false → v.getLsbD 0 = false →
    hostMove (.writeReg 0 v) s = .next s) ∧
  (∀ s : State, s.run = false → s.hostRead (.reg 0) = some 0)

/-- R44: after power-on and after a RESET every field has the value the rule's table gives; CMD holds 0 (`END`)
everywhere; RAS, unspecified, is only in canonical form (for RESET nothing more is claimed of it). RESET leaves the
configuration unchanged. After power-on it is one that R10 and R12 admit: PAL has the known entries of R120. -/
def Obligations.ResetValues : Prop :=
  ∀ s t : State, s = State.reset ∨ s = t.resetAction →
    s.pc = 0 ∧ s.run = false ∧ s.done = false ∧ s.fault = .none ∧ s.finfo = 0 ∧ s.rv = false ∧ s.rw = 0 ∧ s.rh = 0 ∧
    s.res = 0 ∧ s.fv = false ∧ s.uv = false ∧ s.tv = false ∧ s.ukind = .tiles ∧ s.gcols = 0 ∧ s.grows = 0 ∧
    s.flat = [] ∧ s.units = [] ∧ s.txt = [] ∧ (∀ i, i < 256 → s.cmd.read i = 0) ∧
    Memory.wf rasCapacity s.ras = true ∧ (s = t.resetAction → s.cfg = t.cfg) ∧ s.condition = some .idle ∧
    (s = State.reset → s.cfg.palAt 0 = black ∧ s.cfg.palAt 8 = black ∧ s.cfg.palAt 15 = white ∧
      s.cfg.PalAdmitted ∧ s.cfg.NameAdmitted)

/-- R26, R37, R281: STATUS, bit by bit, with the number of each kind and of each fault; the host may read it at any
time. -/
def Obligations.StatusRegister : Prop :=
  ∀ s : State, ∃ v : Word, s.hostRead (.reg 1) = some v ∧
    v.getLsbD 0 = s.run ∧ v.getLsbD 1 = s.done ∧ v.getLsbD 2 = s.rv ∧ v.getLsbD 3 = s.fv ∧ v.getLsbD 4 = s.uv ∧
    v.getLsbD 5 = s.tv ∧
    v.extractLsb' 6 2 = (if s.ukind = .tiles then 0 else if s.ukind = .sprites then 1
      else if s.ukind = .banks then 2 else 3) ∧
    v.extractLsb' 8 4 = (if s.fault = .none then 0 else if s.fault = .inputNotFound then 1
      else if s.fault = .dimensionConstraintViolation then 2 else if s.fault = .illegalCommand then 3 else 4) ∧
    v.extractLsb' 12 20 = 0

/-- R29: the register map. RW, RH, RVALID store the low bits of what is written and read back with zeros above; a
write to any other register but CTRL, and any write but to CTRL while RUN = 1, changes nothing; 13 to 255 read 0. -/
def Obligations.RegisterMap : Prop :=
  (∀ (s : State) (v : Word), s.run = false →
    hostMove (.writeReg 4 v) s = .next { s with rw := v.setWidth 9 } ∧
    hostMove (.writeReg 5 v) s = .next { s with rh := v.setWidth 8 } ∧
    hostMove (.writeReg 12 v) s = .next { s with rv := v.getLsbD 0 }) ∧
  (∀ (s : State) (n : Byte) (v : Word), n ≠ 0 → (s.run = true ∨ (n ≠ 4 ∧ n ≠ 5 ∧ n ≠ 12)) →
    hostMove (.writeReg n v) s = .next s) ∧
  (∀ s : State, s.run = false →
    s.hostRead (.reg 2) = some (s.pc.setWidth 32) ∧ s.hostRead (.reg 4) = some (s.rw.setWidth 32) ∧
    s.hostRead (.reg 5) = some (s.rh.setWidth 32) ∧ s.hostRead (.reg 6) = some s.finfo ∧
    s.hostRead (.reg 10) = some (s.gcols.setWidth 32) ∧ s.hostRead (.reg 11) = some (s.grows.setWidth 32) ∧
    s.hostRead (.reg 12) = some (if s.rv then 1 else 0) ∧
    (s.flat.length ≤ 49152 → s.hostRead (.reg 7) = some (BitVec.ofNat 32 s.flat.length)) ∧
    (s.units.length ≤ 49152 → s.hostRead (.reg 8) = some (BitVec.ofNat 32 s.units.length)) ∧
    s.hostRead (.reg 9) = some (BitVec.ofNat 32 s.txt.length)) ∧
  (∀ (s : State) (n : Byte), s.run = false → 13 ≤ n.toNat → s.hostRead (.reg n) = some 0)

/-- R61: the windows. A read inside a window gives its byte (a unit's length and number as 16-bit values), a read
outside gives 0. -/
def Obligations.HostWindows : Prop :=
  ∀ s : State, s.run = false →
    (∀ a, s.hostRead (.ras a) = some (if a < 196608 then (s.ras.read a).setWidth 32 else 0)) ∧
    (∀ o v, s.flat[o]? = some v → s.hostRead (.flat o) = some (v.setWidth 32)) ∧
    (∀ o, s.flat.length ≤ o → s.hostRead (.flat o) = some 0) ∧
    (∀ k u, s.units[k]? = some u → s.hostRead (.unitNum k) = some (u.num.setWidth 32) ∧
      s.hostRead (.unitLen k) = some ((BitVec.ofNat 16 u.bytes.length).setWidth 32) ∧
      (∀ o v, u.bytes[o]? = some v → s.hostRead (.unitByte k o) = some (v.setWidth 32)) ∧
      (∀ o, u.bytes.length ≤ o → s.hostRead (.unitByte k o) = some 0)) ∧
    (∀ k o, s.units.length ≤ k → s.hostRead (.unitNum k) = some 0 ∧ s.hostRead (.unitLen k) = some 0 ∧
      s.hostRead (.unitByte k o) = some 0) ∧
    (∀ o v, s.txt[o]? = some v → s.hostRead (.txt o) = some (v.setWidth 32)) ∧
    (∀ o, s.txt.length ≤ o → s.hostRead (.txt o) = some 0)

/-- R61, R67: a host write to a raster byte or a command word is what a read of it gives, and changes no other cell and
nothing else, in a unit whose memories are in canonical form. -/
def Obligations.HostMemoryWrites : Prop :=
  (∀ (s : State) (a : Nat) (v : Byte), s.MemoryOk → s.run = false → a < 196608 →
    ∃ m : Memory 8, hostMove (.writeRas a v) s = .next { s with ras := m } ∧ Memory.wf rasCapacity m = true ∧
      m.read a = v ∧ ∀ b, b ≠ a → m.read b = s.ras.read b) ∧
  (∀ (s : State) (i : Nat) (w : Word), s.MemoryOk → s.run = false → i < 256 →
    ∃ m : Memory 32, hostMove (.writeCmd i w) s = .next { s with cmd := m } ∧ Memory.wf cmdDepth m = true ∧
      m.read i = w ∧ ∀ j, j ≠ i → m.read j = s.cmd.read j)

/-- R62: after the host writes a pixel's four channels at `4p` to `4p + 3`, `p = y·RW + x`, `RAS(x, y)` is that pixel,
and every pixel of another index is as before. -/
def Obligations.RasterLayout : Prop :=
  ∀ (s t1 t2 t3 t : State) (x y p : Nat) (r g b a : Byte), s.MemoryOk → s.run = false →
    x < s.rw.toNat → y < s.rh.toNat → s.rw.toNat ≤ 256 → s.rh.toNat ≤ 192 → p = y * s.rw.toNat + x →
    hostMove (.writeRas (4 * p) r) s = .next t1 → hostMove (.writeRas (4 * p + 1) g) t1 = .next t2 →
    hostMove (.writeRas (4 * p + 2) b) t2 = .next t3 → hostMove (.writeRas (4 * p + 3) a) t3 = .next t →
    t.pixel x y = ⟨⟨r, g, b⟩, a⟩ ∧
      ∀ x' y', y' * s.rw.toNat + x' ≠ p → t.pixel x' y' = s.pixel x' y'

/-! ## The invariant (10_state.md R25, R28, R36 to R39, R43; R10, R12 and R120 of the configuration) -/

/-- The unit after power-on meets the invariant. -/
def Obligations.ResetMeetsInvariant : Prop := State.reset.Inv

/-- Every step, of the sequencer or the host, from any state that meets the invariant gives one that meets it. -/
def Obligations.StepKeepsInvariant : Prop := ∀ s t : State, s.Inv → step s = .next t → t.Inv
end

