-- ==== Sys2Proof/Laws/Colour.lean ====
section
/-! SUPPORT. What the two palette scans find: the nearest entry, the first of equally near ones; the first equal entry,
or nothing. -/

namespace Sys2Proof.Machine

open Sys2Proof

theorem pal_toList_getElem? (cfg : Config) (i : BitVec 4) : cfg.pal.toList[i.toNat]? = some (cfg.palAt i) := by
  simp [Config.palAt, i.isLt]

theorem pal_toList_lt {cfg : Config} {k : Nat} {p : Rgb} (h : cfg.pal.toList[k]? = some p) :
    k < 16 ∧ cfg.palAt (BitVec.ofNat 4 k) = p := by
  have hk : k < 16 := by
    have := (List.getElem?_eq_some_iff.1 h).1
    simpa using this
  refine ⟨hk, ?_⟩
  have := pal_toList_getElem? cfg (BitVec.ofNat 4 k)
  rw [BitVec.toNat_ofNat, Nat.mod_eq_of_lt (by simpa using hk), h] at this
  exact (Option.some.inj this).symm

/-- Where the scan for the nearest entry stops: at `best`, no entry being nearer, or at the first of the nearest. -/
theorem nearestFrom_spec (c : Rgb) : ∀ (ps : List Rgb) (i best : Nat) (bestd : Int),
    (nearestFrom c ps i best bestd = best ∧ ∀ q ∈ ps, bestd ≤ sqDist q c) ∨
    ∃ (k : Nat) (p : Rgb), nearestFrom c ps i best bestd = i + k ∧ ps[k]? = some p ∧ sqDist p c < bestd ∧
      (∀ q ∈ ps, sqDist p c ≤ sqDist q c) ∧ ∀ (j : Nat) (q : Rgb), j < k → ps[j]? = some q → sqDist p c < sqDist q c
  | [], i, best, bestd => .inl ⟨rfl, by simp⟩
  | p :: ps, i, best, bestd => by
    unfold nearestFrom
    split
    · next hlt =>
      right
      rcases nearestFrom_spec c ps (i + 1) i (sqDist p c) with ⟨hr, hmin⟩ | ⟨k, q, hr, hq, hd, hmin, hfirst⟩
      · refine ⟨0, p, by simpa using hr, rfl, hlt, ?_, by simp⟩
        intro q hq
        rcases List.mem_cons.1 hq with rfl | hq
        · exact le_refl _
        · exact hmin q hq
      · refine ⟨k + 1, q, by rw [hr]; omega, by simpa using hq, by omega, ?_, ?_⟩
        · intro x hx
          rcases List.mem_cons.1 hx with rfl | hx
          · exact le_of_lt hd
          · exact hmin x hx
        · intro j x hj hx
          cases j with
          | zero => simp only [List.getElem?_cons_zero, Option.some.injEq] at hx; rw [← hx]; exact hd
          | succ j => exact hfirst j x (by omega) (by simpa using hx)
    · next hge =>
      rcases nearestFrom_spec c ps (i + 1) best bestd with ⟨hr, hmin⟩ | ⟨k, q, hr, hq, hd, hmin, hfirst⟩
      · left
        refine ⟨hr, ?_⟩
        intro q hq
        rcases List.mem_cons.1 hq with rfl | hq
        · omega
        · exact hmin q hq
      · right
        refine ⟨k + 1, q, by rw [hr]; omega, by simpa using hq, hd, ?_, ?_⟩
        · intro x hx
          rcases List.mem_cons.1 hx with rfl | hx
          · omega
          · exact hmin x hx
        · intro j x hj hx
          cases j with
          | zero => simp only [List.getElem?_cons_zero, Option.some.injEq] at hx; rw [← hx]; omega
          | succ j => exact hfirst j x (by omega) (by simpa using hx)

/-- Where the scan for an equal entry stops: at the first one, or at 0 when there is none. -/
theorem exactFrom_spec (c : Rgb) : ∀ (ps : List Rgb) (i : Nat),
    (∃ k, exactFrom c ps i = i + k ∧ ps[k]? = some c ∧ ∀ j < k, ps[j]? ≠ some c) ∨
    (exactFrom c ps i = 0 ∧ c ∉ ps)
  | [], i => .inr ⟨rfl, by simp⟩
  | p :: ps, i => by
    unfold exactFrom
    split
    · next h => exact .inl ⟨0, rfl, by simp [h], by simp⟩
    · next h =>
      rcases exactFrom_spec c ps (i + 1) with ⟨k, hr, hk, hfirst⟩ | ⟨hr, hc⟩
      · refine .inl ⟨k + 1, by rw [hr]; omega, by simpa using hk, ?_⟩
        intro j hj
        cases j with
        | zero => simpa using h
        | succ j => simpa using hfirst j (by omega)
      · exact .inr ⟨hr, by simp [hc, Ne.symm h]⟩

end Sys2Proof.Machine
end

