-- ==== Sys2Proof/Laws/Config.lean ====
section
/-! SUPPORT. What the configuration at reset is known to be (one that R10 and R12 admit, and any such), and that a
state is as well configured as any other with its configuration. -/

namespace Sys2Proof

theorem greyRamp_admitted (hwb : Vector Byte 16) (name : List Byte) : (Config.mk greyRamp hwb name).PalAdmitted := by
  have h : ∀ i j : Fin 16, i < j → ¬(i = 0 ∧ j = 8) → greyRamp[i] ≠ greyRamp[j] := by decide +kernel
  exact ⟨rfl, rfl, rfl, h⟩

theorem Config.conform_palAdmitted (c : Config) : c.conform.PalAdmitted := by
  by_cases h : c.PalAdmitted
  · have e : c.conform.pal = c.pal := if_pos h
    simpa only [Config.PalAdmitted, Config.palAt, e] using h
  · have e : c.conform.pal = greyRamp := if_neg h
    simpa only [Config.PalAdmitted, Config.palAt, e] using greyRamp_admitted c.hwb c.name

theorem Config.conform_nameAdmitted (c : Config) : c.conform.NameAdmitted := by
  by_cases h : c.NameAdmitted
  · have e : c.conform.name = c.name := if_pos h
    simpa only [Config.NameAdmitted, e] using h
  · have e : c.conform.name = [97] := if_neg h
    simp only [Config.NameAdmitted, e]
    decide

/-- `conform` leaves every admitted configuration as it is, so the board may have any of them. -/
theorem Config.conform_of_admitted {c : Config} (hp : c.PalAdmitted) (hn : c.NameAdmitted) : c.conform = c := by
  simp only [Config.conform, if_pos hp, if_pos hn]

@[simp] theorem Config.conform_hwb (c : Config) : c.conform.hwb = c.hwb := rfl

/-- States with one configuration are configured alike. -/
theorem Machine.State.ConfigOk.of_cfg_eq {s t : Machine.State} (h : s.ConfigOk) (e : t.cfg = s.cfg) : t.ConfigOk := by
  unfold Machine.State.ConfigOk
  rw [e]
  exact h

end Sys2Proof
end

