-- ==== Sys2Proof/Laws/Encoding.lean ====
section
/-! SUPPORT. How the fields of a command word and the parts the encoder joins correspond (30_encoding.md R90). -/

namespace Sys2Proof

@[simp] theorem opField_wordOf (op : Byte) (pl : BitVec 24) : opField (wordOf op pl) = op := by
  refine BitVec.eq_of_getLsbD_eq fun i hi => ?_
  simp only [opField, wordOf, BitVec.getLsbD_extractLsb', BitVec.getLsbD_append, hi]
  simp

@[simp] theorem payload_wordOf (op : Byte) (pl : BitVec 24) : payload (wordOf op pl) = pl := by
  refine BitVec.eq_of_getLsbD_eq fun i hi => ?_
  simp only [payload, wordOf, BitVec.getLsbD_extractLsb', BitVec.getLsbD_append, hi, Nat.zero_add]
  simp

/-- A field of the payload is that field of the word. -/
theorem extractLsb'_wordOf (op : Byte) (pl : BitVec 24) {a n : Nat} (h : a + n ≤ 24) :
    (wordOf op pl).extractLsb' a n = pl.extractLsb' a n := by
  refine BitVec.eq_of_getLsbD_eq fun i hi => ?_
  simp only [wordOf, BitVec.getLsbD_extractLsb', BitVec.getLsbD_append, show a + i < 24 by omega]
  simp

/-- A word is its opcode and its payload. -/
theorem wordOf_opField_payload (w : Word) : wordOf (opField w) (payload w) = w := by
  refine BitVec.eq_of_getLsbD_eq fun i hi => ?_
  simp only [wordOf, opField, payload, BitVec.getLsbD_append, BitVec.getLsbD_extractLsb']
  interval_cases i <;> simp

theorem colourPayload_fields (w : Word) :
    colourPayload (w.extractLsb' 16 8) (w.extractLsb' 8 8) (w.extractLsb' 0 8) = payload w := by
  refine BitVec.eq_of_getLsbD_eq fun i hi => ?_
  simp only [colourPayload, payload, BitVec.getLsbD_append, BitVec.getLsbD_extractLsb']
  interval_cases i <;> simp

theorem fields_colourPayload (r g b : Byte) :
    (colourPayload r g b).extractLsb' 16 8 = r ∧ (colourPayload r g b).extractLsb' 8 8 = g ∧
      (colourPayload r g b).extractLsb' 0 8 = b := by
  refine ⟨?_, ?_, ?_⟩ <;> refine BitVec.eq_of_getLsbD_eq fun i hi => ?_ <;>
    simp only [colourPayload, BitVec.getLsbD_extractLsb', BitVec.getLsbD_append] <;> interval_cases i <;> simp

theorem pagePayload_fields (w : Word) : (w.extractLsb' 16 8 ++ w.extractLsb' 0 16 : BitVec 24) = payload w := by
  refine BitVec.eq_of_getLsbD_eq fun i hi => ?_
  simp only [payload, BitVec.getLsbD_append, BitVec.getLsbD_extractLsb']
  interval_cases i <;> simp

theorem fields_pagePayload (base : Byte) (size : BitVec 16) :
    (base ++ size : BitVec 24).extractLsb' 16 8 = base ∧ (base ++ size : BitVec 24).extractLsb' 0 16 = size := by
  refine ⟨?_, ?_⟩ <;> refine BitVec.eq_of_getLsbD_eq fun i hi => ?_ <;>
    simp only [BitVec.getLsbD_extractLsb', BitVec.getLsbD_append] <;> interval_cases i <;> simp

theorem indexPayload_fields {w : Word} (h : w.extractLsb' 4 20 = 0) :
    (0#20 ++ w.extractLsb' 0 4 : BitVec 24) = payload w := by
  rw [show (0#20 : BitVec 20) = w.extractLsb' 4 20 from h.symm]
  refine BitVec.eq_of_getLsbD_eq fun i hi => ?_
  simp only [payload, BitVec.getLsbD_append, BitVec.getLsbD_extractLsb']
  interval_cases i <;> simp

theorem fields_indexPayload (idx : BitVec 4) :
    (0#20 ++ idx : BitVec 24).extractLsb' 4 20 = 0 ∧ (0#20 ++ idx : BitVec 24).extractLsb' 0 4 = idx := by
  refine ⟨?_, ?_⟩ <;> refine BitVec.eq_of_getLsbD_eq fun i hi => ?_ <;>
    simp only [BitVec.getLsbD_extractLsb', BitVec.getLsbD_append] <;> interval_cases i <;> simp

theorem encoderPayload_fields {w : Word} (h : w.extractLsb' 10 14 = 0) (h' : w.extractLsb' 2 6 = 0) :
    encoderPayload (w.extractLsb' 8 2) (w.extractLsb' 0 2) = payload w := by
  unfold encoderPayload
  rw [show (0#14 : BitVec 14) = w.extractLsb' 10 14 from h.symm, show (0#6 : BitVec 6) = w.extractLsb' 2 6 from h'.symm]
  refine BitVec.eq_of_getLsbD_eq fun i hi => ?_
  simp only [payload, BitVec.getLsbD_append, BitVec.getLsbD_extractLsb']
  interval_cases i <;> simp

/-- A word with a known opcode number is that opcode and its payload. -/
theorem eq_wordOf_of_op {w : Word} {op : Byte} (h : (opField w).toNat = op.toNat) : w = wordOf op (payload w) := by
  rw [← BitVec.eq_of_toNat_eq h, wordOf_opField_payload]

theorem opField_toNat (w : Word) : (opField w).toNat = w.toNat / 2 ^ 24 := by
  simp only [opField, BitVec.extractLsb'_toNat, Nat.shiftRight_eq_div_pow]
  have := w.isLt
  omega

theorem payload_toNat (w : Word) : (payload w).toNat = w.toNat % 2 ^ 24 := by
  simp [payload, BitVec.extractLsb'_toNat]

theorem wordOf_toNat (op : Byte) (pl : BitVec 24) : (wordOf op pl).toNat = op.toNat * 2 ^ 24 + pl.toNat := by
  have h := opField_toNat (wordOf op pl)
  have h' := payload_toNat (wordOf op pl)
  rw [opField_wordOf] at h
  rw [payload_wordOf] at h'
  omega

end Sys2Proof
end

