-- ==== Sys2Proof/Laws/State.lean ====
section
/-! SUPPORT. One lemma per field and per named update of the state: what the update leaves in the field. -/

namespace Sys2Proof.Machine

open Sys2Proof

@[simp] theorem State.advance_cfg (s : State) : s.advance.cfg = s.cfg := rfl
@[simp] theorem State.advance_pc (s : State) : s.advance.pc = s.pc + 1 := rfl
@[simp] theorem State.advance_run (s : State) : s.advance.run = s.run := rfl
@[simp] theorem State.advance_done (s : State) : s.advance.done = s.done := rfl
@[simp] theorem State.advance_fault (s : State) : s.advance.fault = s.fault := rfl
@[simp] theorem State.advance_finfo (s : State) : s.advance.finfo = s.finfo := rfl
@[simp] theorem State.advance_rv (s : State) : s.advance.rv = s.rv := rfl
@[simp] theorem State.advance_rw (s : State) : s.advance.rw = s.rw := rfl
@[simp] theorem State.advance_rh (s : State) : s.advance.rh = s.rh := rfl
@[simp] theorem State.advance_res (s : State) : s.advance.res = s.res := rfl
@[simp] theorem State.advance_ras (s : State) : s.advance.ras = s.ras := rfl
@[simp] theorem State.advance_cmd (s : State) : s.advance.cmd = s.cmd := rfl
@[simp] theorem State.advance_flat (s : State) : s.advance.flat = s.flat := rfl
@[simp] theorem State.advance_fv (s : State) : s.advance.fv = s.fv := rfl
@[simp] theorem State.advance_units (s : State) : s.advance.units = s.units := rfl
@[simp] theorem State.advance_uv (s : State) : s.advance.uv = s.uv := rfl
@[simp] theorem State.advance_ukind (s : State) : s.advance.ukind = s.ukind := rfl
@[simp] theorem State.advance_gcols (s : State) : s.advance.gcols = s.gcols := rfl
@[simp] theorem State.advance_grows (s : State) : s.advance.grows = s.grows := rfl
@[simp] theorem State.advance_txt (s : State) : s.advance.txt = s.txt := rfl
@[simp] theorem State.advance_tv (s : State) : s.advance.tv = s.tv := rfl
@[simp] theorem State.advance_host (s : State) : s.advance.host = s.host := rfl
@[simp] theorem State.advance_resets (s : State) : s.advance.resets = s.resets := rfl

@[simp] theorem State.setRes_cfg (v : Byte) (s : State) : (s.setRes v).cfg = s.cfg := rfl
@[simp] theorem State.setRes_pc (v : Byte) (s : State) : (s.setRes v).pc = s.pc := rfl
@[simp] theorem State.setRes_run (v : Byte) (s : State) : (s.setRes v).run = s.run := rfl
@[simp] theorem State.setRes_done (v : Byte) (s : State) : (s.setRes v).done = s.done := rfl
@[simp] theorem State.setRes_fault (v : Byte) (s : State) : (s.setRes v).fault = s.fault := rfl
@[simp] theorem State.setRes_finfo (v : Byte) (s : State) : (s.setRes v).finfo = s.finfo := rfl
@[simp] theorem State.setRes_rv (v : Byte) (s : State) : (s.setRes v).rv = s.rv := rfl
@[simp] theorem State.setRes_rw (v : Byte) (s : State) : (s.setRes v).rw = s.rw := rfl
@[simp] theorem State.setRes_rh (v : Byte) (s : State) : (s.setRes v).rh = s.rh := rfl
@[simp] theorem State.setRes_res (v : Byte) (s : State) : (s.setRes v).res = v := rfl
@[simp] theorem State.setRes_ras (v : Byte) (s : State) : (s.setRes v).ras = s.ras := rfl
@[simp] theorem State.setRes_cmd (v : Byte) (s : State) : (s.setRes v).cmd = s.cmd := rfl
@[simp] theorem State.setRes_flat (v : Byte) (s : State) : (s.setRes v).flat = s.flat := rfl
@[simp] theorem State.setRes_fv (v : Byte) (s : State) : (s.setRes v).fv = s.fv := rfl
@[simp] theorem State.setRes_units (v : Byte) (s : State) : (s.setRes v).units = s.units := rfl
@[simp] theorem State.setRes_uv (v : Byte) (s : State) : (s.setRes v).uv = s.uv := rfl
@[simp] theorem State.setRes_ukind (v : Byte) (s : State) : (s.setRes v).ukind = s.ukind := rfl
@[simp] theorem State.setRes_gcols (v : Byte) (s : State) : (s.setRes v).gcols = s.gcols := rfl
@[simp] theorem State.setRes_grows (v : Byte) (s : State) : (s.setRes v).grows = s.grows := rfl
@[simp] theorem State.setRes_txt (v : Byte) (s : State) : (s.setRes v).txt = s.txt := rfl
@[simp] theorem State.setRes_tv (v : Byte) (s : State) : (s.setRes v).tv = s.tv := rfl
@[simp] theorem State.setRes_host (v : Byte) (s : State) : (s.setRes v).host = s.host := rfl
@[simp] theorem State.setRes_resets (v : Byte) (s : State) : (s.setRes v).resets = s.resets := rfl

@[simp] theorem State.dropFlat_cfg (s : State) : s.dropFlat.cfg = s.cfg := rfl
@[simp] theorem State.dropFlat_pc (s : State) : s.dropFlat.pc = s.pc := rfl
@[simp] theorem State.dropFlat_run (s : State) : s.dropFlat.run = s.run := rfl
@[simp] theorem State.dropFlat_done (s : State) : s.dropFlat.done = s.done := rfl
@[simp] theorem State.dropFlat_fault (s : State) : s.dropFlat.fault = s.fault := rfl
@[simp] theorem State.dropFlat_finfo (s : State) : s.dropFlat.finfo = s.finfo := rfl
@[simp] theorem State.dropFlat_rv (s : State) : s.dropFlat.rv = s.rv := rfl
@[simp] theorem State.dropFlat_rw (s : State) : s.dropFlat.rw = s.rw := rfl
@[simp] theorem State.dropFlat_rh (s : State) : s.dropFlat.rh = s.rh := rfl
@[simp] theorem State.dropFlat_res (s : State) : s.dropFlat.res = s.res := rfl
@[simp] theorem State.dropFlat_ras (s : State) : s.dropFlat.ras = s.ras := rfl
@[simp] theorem State.dropFlat_cmd (s : State) : s.dropFlat.cmd = s.cmd := rfl
@[simp] theorem State.dropFlat_flat (s : State) : s.dropFlat.flat = [] := rfl
@[simp] theorem State.dropFlat_fv (s : State) : s.dropFlat.fv = false := rfl
@[simp] theorem State.dropFlat_units (s : State) : s.dropFlat.units = s.units := rfl
@[simp] theorem State.dropFlat_uv (s : State) : s.dropFlat.uv = s.uv := rfl
@[simp] theorem State.dropFlat_ukind (s : State) : s.dropFlat.ukind = s.ukind := rfl
@[simp] theorem State.dropFlat_gcols (s : State) : s.dropFlat.gcols = s.gcols := rfl
@[simp] theorem State.dropFlat_grows (s : State) : s.dropFlat.grows = s.grows := rfl
@[simp] theorem State.dropFlat_txt (s : State) : s.dropFlat.txt = s.txt := rfl
@[simp] theorem State.dropFlat_tv (s : State) : s.dropFlat.tv = s.tv := rfl
@[simp] theorem State.dropFlat_host (s : State) : s.dropFlat.host = s.host := rfl
@[simp] theorem State.dropFlat_resets (s : State) : s.dropFlat.resets = s.resets := rfl

@[simp] theorem State.putUnits_cfg (k : UnitKind) (c r : Nat) (u : List EncUnit) (s : State) : (s.putUnits k c r u).cfg = s.cfg := rfl
@[simp] theorem State.putUnits_pc (k : UnitKind) (c r : Nat) (u : List EncUnit) (s : State) : (s.putUnits k c r u).pc = s.pc := rfl
@[simp] theorem State.putUnits_run (k : UnitKind) (c r : Nat) (u : List EncUnit) (s : State) : (s.putUnits k c r u).run = s.run := rfl
@[simp] theorem State.putUnits_done (k : UnitKind) (c r : Nat) (u : List EncUnit) (s : State) : (s.putUnits k c r u).done = s.done := rfl
@[simp] theorem State.putUnits_fault (k : UnitKind) (c r : Nat) (u : List EncUnit) (s : State) : (s.putUnits k c r u).fault = s.fault := rfl
@[simp] theorem State.putUnits_finfo (k : UnitKind) (c r : Nat) (u : List EncUnit) (s : State) : (s.putUnits k c r u).finfo = s.finfo := rfl
@[simp] theorem State.putUnits_rv (k : UnitKind) (c r : Nat) (u : List EncUnit) (s : State) : (s.putUnits k c r u).rv = s.rv := rfl
@[simp] theorem State.putUnits_rw (k : UnitKind) (c r : Nat) (u : List EncUnit) (s : State) : (s.putUnits k c r u).rw = s.rw := rfl
@[simp] theorem State.putUnits_rh (k : UnitKind) (c r : Nat) (u : List EncUnit) (s : State) : (s.putUnits k c r u).rh = s.rh := rfl
@[simp] theorem State.putUnits_res (k : UnitKind) (c r : Nat) (u : List EncUnit) (s : State) : (s.putUnits k c r u).res = s.res := rfl
@[simp] theorem State.putUnits_ras (k : UnitKind) (c r : Nat) (u : List EncUnit) (s : State) : (s.putUnits k c r u).ras = s.ras := rfl
@[simp] theorem State.putUnits_cmd (k : UnitKind) (c r : Nat) (u : List EncUnit) (s : State) : (s.putUnits k c r u).cmd = s.cmd := rfl
@[simp] theorem State.putUnits_flat (k : UnitKind) (c r : Nat) (u : List EncUnit) (s : State) : (s.putUnits k c r u).flat = s.flat := rfl
@[simp] theorem State.putUnits_fv (k : UnitKind) (c r : Nat) (u : List EncUnit) (s : State) : (s.putUnits k c r u).fv = s.fv := rfl
@[simp] theorem State.putUnits_units (k : UnitKind) (c r : Nat) (u : List EncUnit) (s : State) : (s.putUnits k c r u).units = u := rfl
@[simp] theorem State.putUnits_uv (k : UnitKind) (c r : Nat) (u : List EncUnit) (s : State) : (s.putUnits k c r u).uv = true := rfl
@[simp] theorem State.putUnits_ukind (k : UnitKind) (c r : Nat) (u : List EncUnit) (s : State) : (s.putUnits k c r u).ukind = k := rfl
@[simp] theorem State.putUnits_gcols (k : UnitKind) (c r : Nat) (u : List EncUnit) (s : State) : (s.putUnits k c r u).gcols = BitVec.ofNat 16 c := rfl
@[simp] theorem State.putUnits_grows (k : UnitKind) (c r : Nat) (u : List EncUnit) (s : State) : (s.putUnits k c r u).grows = BitVec.ofNat 16 r := rfl
@[simp] theorem State.putUnits_txt (k : UnitKind) (c r : Nat) (u : List EncUnit) (s : State) : (s.putUnits k c r u).txt = [] := rfl
@[simp] theorem State.putUnits_tv (k : UnitKind) (c r : Nat) (u : List EncUnit) (s : State) : (s.putUnits k c r u).tv = false := rfl
@[simp] theorem State.putUnits_host (k : UnitKind) (c r : Nat) (u : List EncUnit) (s : State) : (s.putUnits k c r u).host = s.host := rfl
@[simp] theorem State.putUnits_resets (k : UnitKind) (c r : Nat) (u : List EncUnit) (s : State) : (s.putUnits k c r u).resets = s.resets := rfl

@[simp] theorem State.putFlat_cfg (f : List Byte) (s : State) : (s.putFlat f).cfg = s.cfg := rfl
@[simp] theorem State.putFlat_pc (f : List Byte) (s : State) : (s.putFlat f).pc = s.pc := rfl
@[simp] theorem State.putFlat_run (f : List Byte) (s : State) : (s.putFlat f).run = s.run := rfl
@[simp] theorem State.putFlat_done (f : List Byte) (s : State) : (s.putFlat f).done = s.done := rfl
@[simp] theorem State.putFlat_fault (f : List Byte) (s : State) : (s.putFlat f).fault = s.fault := rfl
@[simp] theorem State.putFlat_finfo (f : List Byte) (s : State) : (s.putFlat f).finfo = s.finfo := rfl
@[simp] theorem State.putFlat_rv (f : List Byte) (s : State) : (s.putFlat f).rv = s.rv := rfl
@[simp] theorem State.putFlat_rw (f : List Byte) (s : State) : (s.putFlat f).rw = s.rw := rfl
@[simp] theorem State.putFlat_rh (f : List Byte) (s : State) : (s.putFlat f).rh = s.rh := rfl
@[simp] theorem State.putFlat_res (f : List Byte) (s : State) : (s.putFlat f).res = s.res := rfl
@[simp] theorem State.putFlat_ras (f : List Byte) (s : State) : (s.putFlat f).ras = s.ras := rfl
@[simp] theorem State.putFlat_cmd (f : List Byte) (s : State) : (s.putFlat f).cmd = s.cmd := rfl
@[simp] theorem State.putFlat_flat (f : List Byte) (s : State) : (s.putFlat f).flat = f := rfl
@[simp] theorem State.putFlat_fv (f : List Byte) (s : State) : (s.putFlat f).fv = true := rfl
@[simp] theorem State.putFlat_units (f : List Byte) (s : State) : (s.putFlat f).units = [] := rfl
@[simp] theorem State.putFlat_uv (f : List Byte) (s : State) : (s.putFlat f).uv = false := rfl
@[simp] theorem State.putFlat_ukind (f : List Byte) (s : State) : (s.putFlat f).ukind = .tiles := rfl
@[simp] theorem State.putFlat_gcols (f : List Byte) (s : State) : (s.putFlat f).gcols = 0 := rfl
@[simp] theorem State.putFlat_grows (f : List Byte) (s : State) : (s.putFlat f).grows = 0 := rfl
@[simp] theorem State.putFlat_txt (f : List Byte) (s : State) : (s.putFlat f).txt = [] := rfl
@[simp] theorem State.putFlat_tv (f : List Byte) (s : State) : (s.putFlat f).tv = false := rfl
@[simp] theorem State.putFlat_host (f : List Byte) (s : State) : (s.putFlat f).host = s.host := rfl
@[simp] theorem State.putFlat_resets (f : List Byte) (s : State) : (s.putFlat f).resets = s.resets := rfl

@[simp] theorem State.putTxt_cfg (t : List Byte) (s : State) : (s.putTxt t).cfg = s.cfg := rfl
@[simp] theorem State.putTxt_pc (t : List Byte) (s : State) : (s.putTxt t).pc = s.pc := rfl
@[simp] theorem State.putTxt_run (t : List Byte) (s : State) : (s.putTxt t).run = s.run := rfl
@[simp] theorem State.putTxt_done (t : List Byte) (s : State) : (s.putTxt t).done = s.done := rfl
@[simp] theorem State.putTxt_fault (t : List Byte) (s : State) : (s.putTxt t).fault = s.fault := rfl
@[simp] theorem State.putTxt_finfo (t : List Byte) (s : State) : (s.putTxt t).finfo = s.finfo := rfl
@[simp] theorem State.putTxt_rv (t : List Byte) (s : State) : (s.putTxt t).rv = s.rv := rfl
@[simp] theorem State.putTxt_rw (t : List Byte) (s : State) : (s.putTxt t).rw = s.rw := rfl
@[simp] theorem State.putTxt_rh (t : List Byte) (s : State) : (s.putTxt t).rh = s.rh := rfl
@[simp] theorem State.putTxt_res (t : List Byte) (s : State) : (s.putTxt t).res = s.res := rfl
@[simp] theorem State.putTxt_ras (t : List Byte) (s : State) : (s.putTxt t).ras = s.ras := rfl
@[simp] theorem State.putTxt_cmd (t : List Byte) (s : State) : (s.putTxt t).cmd = s.cmd := rfl
@[simp] theorem State.putTxt_flat (t : List Byte) (s : State) : (s.putTxt t).flat = s.flat := rfl
@[simp] theorem State.putTxt_fv (t : List Byte) (s : State) : (s.putTxt t).fv = s.fv := rfl
@[simp] theorem State.putTxt_units (t : List Byte) (s : State) : (s.putTxt t).units = s.units := rfl
@[simp] theorem State.putTxt_uv (t : List Byte) (s : State) : (s.putTxt t).uv = s.uv := rfl
@[simp] theorem State.putTxt_ukind (t : List Byte) (s : State) : (s.putTxt t).ukind = s.ukind := rfl
@[simp] theorem State.putTxt_gcols (t : List Byte) (s : State) : (s.putTxt t).gcols = s.gcols := rfl
@[simp] theorem State.putTxt_grows (t : List Byte) (s : State) : (s.putTxt t).grows = s.grows := rfl
@[simp] theorem State.putTxt_txt (t : List Byte) (s : State) : (s.putTxt t).txt = t := rfl
@[simp] theorem State.putTxt_tv (t : List Byte) (s : State) : (s.putTxt t).tv = true := rfl
@[simp] theorem State.putTxt_host (t : List Byte) (s : State) : (s.putTxt t).host = s.host := rfl
@[simp] theorem State.putTxt_resets (t : List Byte) (s : State) : (s.putTxt t).resets = s.resets := rfl

@[simp] theorem State.finish_cfg (s : State) : s.finish.cfg = s.cfg := rfl
@[simp] theorem State.finish_pc (s : State) : s.finish.pc = s.pc := rfl
@[simp] theorem State.finish_run (s : State) : s.finish.run = false := rfl
@[simp] theorem State.finish_done (s : State) : s.finish.done = true := rfl
@[simp] theorem State.finish_fault (s : State) : s.finish.fault = s.fault := rfl
@[simp] theorem State.finish_finfo (s : State) : s.finish.finfo = s.finfo := rfl
@[simp] theorem State.finish_rv (s : State) : s.finish.rv = s.rv := rfl
@[simp] theorem State.finish_rw (s : State) : s.finish.rw = s.rw := rfl
@[simp] theorem State.finish_rh (s : State) : s.finish.rh = s.rh := rfl
@[simp] theorem State.finish_res (s : State) : s.finish.res = s.res := rfl
@[simp] theorem State.finish_ras (s : State) : s.finish.ras = s.ras := rfl
@[simp] theorem State.finish_cmd (s : State) : s.finish.cmd = s.cmd := rfl
@[simp] theorem State.finish_flat (s : State) : s.finish.flat = s.flat := rfl
@[simp] theorem State.finish_fv (s : State) : s.finish.fv = s.fv := rfl
@[simp] theorem State.finish_units (s : State) : s.finish.units = s.units := rfl
@[simp] theorem State.finish_uv (s : State) : s.finish.uv = s.uv := rfl
@[simp] theorem State.finish_ukind (s : State) : s.finish.ukind = s.ukind := rfl
@[simp] theorem State.finish_gcols (s : State) : s.finish.gcols = s.gcols := rfl
@[simp] theorem State.finish_grows (s : State) : s.finish.grows = s.grows := rfl
@[simp] theorem State.finish_txt (s : State) : s.finish.txt = s.txt := rfl
@[simp] theorem State.finish_tv (s : State) : s.finish.tv = s.tv := rfl
@[simp] theorem State.finish_host (s : State) : s.finish.host = s.host := rfl
@[simp] theorem State.finish_resets (s : State) : s.finish.resets = s.resets := rfl

@[simp] theorem State.raise_cfg (c : FaultCode) (w : Word) (s : State) : (s.raise c w).cfg = s.cfg := rfl
@[simp] theorem State.raise_pc (c : FaultCode) (w : Word) (s : State) : (s.raise c w).pc = s.pc := rfl
@[simp] theorem State.raise_run (c : FaultCode) (w : Word) (s : State) : (s.raise c w).run = false := rfl
@[simp] theorem State.raise_done (c : FaultCode) (w : Word) (s : State) : (s.raise c w).done = s.done := rfl
@[simp] theorem State.raise_fault (c : FaultCode) (w : Word) (s : State) : (s.raise c w).fault = c := rfl
@[simp] theorem State.raise_finfo (c : FaultCode) (w : Word) (s : State) : (s.raise c w).finfo = w := rfl
@[simp] theorem State.raise_rv (c : FaultCode) (w : Word) (s : State) : (s.raise c w).rv = s.rv := rfl
@[simp] theorem State.raise_rw (c : FaultCode) (w : Word) (s : State) : (s.raise c w).rw = s.rw := rfl
@[simp] theorem State.raise_rh (c : FaultCode) (w : Word) (s : State) : (s.raise c w).rh = s.rh := rfl
@[simp] theorem State.raise_res (c : FaultCode) (w : Word) (s : State) : (s.raise c w).res = s.res := rfl
@[simp] theorem State.raise_ras (c : FaultCode) (w : Word) (s : State) : (s.raise c w).ras = s.ras := rfl
@[simp] theorem State.raise_cmd (c : FaultCode) (w : Word) (s : State) : (s.raise c w).cmd = s.cmd := rfl
@[simp] theorem State.raise_flat (c : FaultCode) (w : Word) (s : State) : (s.raise c w).flat = s.flat := rfl
@[simp] theorem State.raise_fv (c : FaultCode) (w : Word) (s : State) : (s.raise c w).fv = s.fv := rfl
@[simp] theorem State.raise_units (c : FaultCode) (w : Word) (s : State) : (s.raise c w).units = s.units := rfl
@[simp] theorem State.raise_uv (c : FaultCode) (w : Word) (s : State) : (s.raise c w).uv = s.uv := rfl
@[simp] theorem State.raise_ukind (c : FaultCode) (w : Word) (s : State) : (s.raise c w).ukind = s.ukind := rfl
@[simp] theorem State.raise_gcols (c : FaultCode) (w : Word) (s : State) : (s.raise c w).gcols = s.gcols := rfl
@[simp] theorem State.raise_grows (c : FaultCode) (w : Word) (s : State) : (s.raise c w).grows = s.grows := rfl
@[simp] theorem State.raise_txt (c : FaultCode) (w : Word) (s : State) : (s.raise c w).txt = s.txt := rfl
@[simp] theorem State.raise_tv (c : FaultCode) (w : Word) (s : State) : (s.raise c w).tv = s.tv := rfl
@[simp] theorem State.raise_host (c : FaultCode) (w : Word) (s : State) : (s.raise c w).host = s.host := rfl
@[simp] theorem State.raise_resets (c : FaultCode) (w : Word) (s : State) : (s.raise c w).resets = s.resets := rfl

@[simp] theorem State.start_cfg (s : State) : s.start.cfg = s.cfg := rfl
@[simp] theorem State.start_pc (s : State) : s.start.pc = 0 := rfl
@[simp] theorem State.start_run (s : State) : s.start.run = true := rfl
@[simp] theorem State.start_done (s : State) : s.start.done = false := rfl
@[simp] theorem State.start_fault (s : State) : s.start.fault = .none := rfl
@[simp] theorem State.start_finfo (s : State) : s.start.finfo = 0 := rfl
@[simp] theorem State.start_rv (s : State) : s.start.rv = s.rv := rfl
@[simp] theorem State.start_rw (s : State) : s.start.rw = s.rw := rfl
@[simp] theorem State.start_rh (s : State) : s.start.rh = s.rh := rfl
@[simp] theorem State.start_res (s : State) : s.start.res = 0 := rfl
@[simp] theorem State.start_ras (s : State) : s.start.ras = s.ras := rfl
@[simp] theorem State.start_cmd (s : State) : s.start.cmd = s.cmd := rfl
@[simp] theorem State.start_flat (s : State) : s.start.flat = [] := rfl
@[simp] theorem State.start_fv (s : State) : s.start.fv = false := rfl
@[simp] theorem State.start_units (s : State) : s.start.units = [] := rfl
@[simp] theorem State.start_uv (s : State) : s.start.uv = false := rfl
@[simp] theorem State.start_ukind (s : State) : s.start.ukind = .tiles := rfl
@[simp] theorem State.start_gcols (s : State) : s.start.gcols = 0 := rfl
@[simp] theorem State.start_grows (s : State) : s.start.grows = 0 := rfl
@[simp] theorem State.start_txt (s : State) : s.start.txt = [] := rfl
@[simp] theorem State.start_tv (s : State) : s.start.tv = false := rfl
@[simp] theorem State.start_host (s : State) : s.start.host = s.host := rfl
@[simp] theorem State.start_resets (s : State) : s.start.resets = s.resets := rfl

@[simp] theorem State.cleared_cfg (c : Config) (m : Memory 8) (h : List HostMove) (n : Nat) : (State.cleared c m h n).cfg = c := rfl
@[simp] theorem State.cleared_pc (c : Config) (m : Memory 8) (h : List HostMove) (n : Nat) : (State.cleared c m h n).pc = 0 := rfl
@[simp] theorem State.cleared_run (c : Config) (m : Memory 8) (h : List HostMove) (n : Nat) : (State.cleared c m h n).run = false := rfl
@[simp] theorem State.cleared_done (c : Config) (m : Memory 8) (h : List HostMove) (n : Nat) : (State.cleared c m h n).done = false := rfl
@[simp] theorem State.cleared_fault (c : Config) (m : Memory 8) (h : List HostMove) (n : Nat) : (State.cleared c m h n).fault = .none := rfl
@[simp] theorem State.cleared_finfo (c : Config) (m : Memory 8) (h : List HostMove) (n : Nat) : (State.cleared c m h n).finfo = 0 := rfl
@[simp] theorem State.cleared_rv (c : Config) (m : Memory 8) (h : List HostMove) (n : Nat) : (State.cleared c m h n).rv = false := rfl
@[simp] theorem State.cleared_rw (c : Config) (m : Memory 8) (h : List HostMove) (n : Nat) : (State.cleared c m h n).rw = 0 := rfl
@[simp] theorem State.cleared_rh (c : Config) (m : Memory 8) (h : List HostMove) (n : Nat) : (State.cleared c m h n).rh = 0 := rfl
@[simp] theorem State.cleared_res (c : Config) (m : Memory 8) (h : List HostMove) (n : Nat) : (State.cleared c m h n).res = 0 := rfl
@[simp] theorem State.cleared_ras (c : Config) (m : Memory 8) (h : List HostMove) (n : Nat) : (State.cleared c m h n).ras = m := rfl
@[simp] theorem State.cleared_cmd (c : Config) (m : Memory 8) (h : List HostMove) (n : Nat) : (State.cleared c m h n).cmd = [] := rfl
@[simp] theorem State.cleared_flat (c : Config) (m : Memory 8) (h : List HostMove) (n : Nat) : (State.cleared c m h n).flat = [] := rfl
@[simp] theorem State.cleared_fv (c : Config) (m : Memory 8) (h : List HostMove) (n : Nat) : (State.cleared c m h n).fv = false := rfl
@[simp] theorem State.cleared_units (c : Config) (m : Memory 8) (h : List HostMove) (n : Nat) : (State.cleared c m h n).units = [] := rfl
@[simp] theorem State.cleared_uv (c : Config) (m : Memory 8) (h : List HostMove) (n : Nat) : (State.cleared c m h n).uv = false := rfl
@[simp] theorem State.cleared_ukind (c : Config) (m : Memory 8) (h : List HostMove) (n : Nat) : (State.cleared c m h n).ukind = .tiles := rfl
@[simp] theorem State.cleared_gcols (c : Config) (m : Memory 8) (h : List HostMove) (n : Nat) : (State.cleared c m h n).gcols = 0 := rfl
@[simp] theorem State.cleared_grows (c : Config) (m : Memory 8) (h : List HostMove) (n : Nat) : (State.cleared c m h n).grows = 0 := rfl
@[simp] theorem State.cleared_txt (c : Config) (m : Memory 8) (h : List HostMove) (n : Nat) : (State.cleared c m h n).txt = [] := rfl
@[simp] theorem State.cleared_tv (c : Config) (m : Memory 8) (h : List HostMove) (n : Nat) : (State.cleared c m h n).tv = false := rfl
@[simp] theorem State.cleared_host (c : Config) (m : Memory 8) (h : List HostMove) (n : Nat) : (State.cleared c m h n).host = h := rfl
@[simp] theorem State.cleared_resets (c : Config) (m : Memory 8) (h : List HostMove) (n : Nat) : (State.cleared c m h n).resets = n := rfl

end Sys2Proof.Machine
end

