-- ==== Sys2Proof/Laws/Exec.lean ====
section
/-! SUPPORT. Everything a command can do, said once: every command answers a next state, and that state is one of
those below. -/

namespace Sys2Proof.Machine

open Sys2Proof

/-- The next states a command can answer. -/
inductive CommandEffect (i : Instr) (s : State) : State → Prop where
  | ends : i = .endCmd → CommandEffect i s s.finish
  | scalar (v : Byte) : i.isScalar = true → CommandEffect i s (s.setRes v).advance
  | raises (c : FaultCode) : c ≠ .none → raisedBy c (some i) = true → CommandEffect i s (s.raise c (encode i))
  | tiles (m : IndexMode) : i = tileCommand m → s.encodeCheck = .none →
      CommandEffect i s (s.dropFlat.putUnits .tiles (s.rw.toNat / 8) (s.rh.toNat / 8)
        (gridUnits 8 (s.rw.toNat / 8) (s.rh.toNat / 8) (tileBlock m s))).advance
  | sprites (m : IndexMode) : i = spriteCommand m → s.encodeCheck = .none →
      CommandEffect i s (s.dropFlat.putUnits .sprites (s.rw.toNat / 16) (s.rh.toNat / 16)
        (gridUnits 16 (s.rw.toNat / 16) (s.rh.toNat / 16) (spriteBlock m s))).advance
  | bitmap (m : ColourMode) : i = bitmapCommand m → s.encodeCheck = .none →
      CommandEffect i s (s.putFlat (bitmapBytes m s)).advance
  | banks : i = .bank → s.partitionCheck = .none →
      CommandEffect i s (s.putUnits .banks 1 (split s.flat 8192 0).length (split s.flat 8192 0)).advance
  | pages (base : Byte) (size : BitVec 16) : i = .page base size → s.partitionCheck = .none →
      CommandEffect i s (s.putUnits .pages 1 (split s.flat (pageSize size) base.toNat).length
        (split s.flat (pageSize size) base.toNat)).advance
  | header : i = .emitH → s.emitHCheck = .none →
      CommandEffect i s (s.putTxt (headerText s.cfg.name s.ukind s.rw.toNat s.rh.toNat s.units)).advance
  | assembler : i = .emitA → s.emitACheck = .none →
      CommandEffect i s (s.putTxt (asmText s.cfg.name s.units)).advance

/-- A checked command does its writes, or raises the fault of its check. -/
theorem checked_cases {c : FaultCode} {i : Instr} {s t u : State} (h : checked c i s t = .next u) :
    (c = .none ∧ u = t) ∨ (c ≠ .none ∧ u = s.raise c (encode i)) := by
  cases c <;> simp_all [checked]

theorem checked_none (i : Instr) (s t : State) : checked .none i s t = .next t := rfl

theorem checked_fault {c : FaultCode} (h : c ≠ .none) (i : Instr) (s t : State) :
    checked c i s t = .next (s.raise c (encode i)) := by
  cases c <;> first | exact absurd rfl h | rfl

theorem encodeCheck_cases (s : State) :
    (s.encodeCheck = .inputNotFound ∧ s.rv = false) ∨
    (s.encodeCheck = .dimensionConstraintViolation ∧ s.rv = true ∧ s.dimsOk = false) ∨
    (s.encodeCheck = .none ∧ s.rv = true ∧ s.dimsOk = true) := by
  unfold State.encodeCheck; split
  · exact .inl ⟨rfl, ‹_›⟩
  · split
    · exact .inr (.inl ⟨rfl, by simp_all, ‹_›⟩)
    · exact .inr (.inr ⟨rfl, by simp_all, by simp_all⟩)

theorem partitionCheck_cases (s : State) :
    (s.partitionCheck = .sequenceViolation ∧ s.fv = false) ∨
    (s.partitionCheck = .dimensionConstraintViolation ∧ s.fv = true ∧ s.rh.toNat ≠ 192) ∨
    (s.partitionCheck = .none ∧ s.fv = true ∧ s.rh.toNat = 192) := by
  unfold State.partitionCheck; split
  · exact .inl ⟨rfl, ‹_›⟩
  · split
    · exact .inr (.inl ⟨rfl, by simp_all, ‹_›⟩)
    · exact .inr (.inr ⟨rfl, by simp_all, by simp_all⟩)

theorem emitHCheck_cases (s : State) :
    (s.emitHCheck = .sequenceViolation ∧ s.uv = false) ∨ (s.emitHCheck = .none ∧ s.uv = true) := by
  unfold State.emitHCheck; split <;> simp_all

theorem emitACheck_cases (s : State) :
    (s.emitACheck = .sequenceViolation ∧ (s.uv = false ∨ s.ukind ≠ .pages)) ∨
    (s.emitACheck = .none ∧ s.uv = true ∧ s.ukind = .pages) := by
  unfold State.emitACheck; split
  · exact .inl ⟨rfl, ‹_›⟩
  · next h =>
    have h := not_or.1 h
    exact .inr ⟨rfl, by simpa using h.1, not_not.1 h.2⟩

theorem dimsOk_iff (s : State) : s.dimsOk = true ↔
    1 ≤ s.rw.toNat ∧ s.rw.toNat ≤ 256 ∧ 1 ≤ s.rh.toNat ∧ s.rh.toNat ≤ 192 := by
  simp [State.dimsOk, and_assoc]

/-- An encode command's checks pass exactly with a valid raster in range. -/
theorem encodeCheck_none_iff (s : State) : s.encodeCheck = .none ↔ s.rv = true ∧ s.dimsOk = true := by
  rcases encodeCheck_cases s with h | h | h <;> simp [h]

/-- A partition command's checks pass exactly with a bitmap of full height. -/
theorem partitionCheck_none_iff (s : State) : s.partitionCheck = .none ↔ s.fv = true ∧ s.rh.toNat = 192 := by
  rcases partitionCheck_cases s with h | h | h <;> simp [h]

theorem raisedBy_encodeCheck {s : State} {i : Instr} (hi : i.isEncode = true) (h : s.encodeCheck ≠ .none) :
    raisedBy s.encodeCheck (some i) = true := by
  rcases encodeCheck_cases s with h' | h' | h' <;> simp_all [raisedBy]

theorem raisedBy_partitionCheck {s : State} {i : Instr} (hi : i.isPartition = true) (h : s.partitionCheck ≠ .none) :
    raisedBy s.partitionCheck (some i) = true := by
  rcases partitionCheck_cases s with h' | h' | h' <;> simp_all [raisedBy]

/-- Everything a command can do. -/
theorem exec_effect {i : Instr} {s t : State} (h : exec i s = .next t) : CommandEffect i s t := by
  have grid (m : IndexMode) (hi : i = tileCommand m)
      (h : encodeGrid i .tiles tileSide (tileBlock m s) s = .next t) : CommandEffect i s t := by
    rcases checked_cases h with ⟨hc, rfl⟩ | ⟨hc, rfl⟩
    · exact .tiles m hi hc
    · exact .raises _ hc (raisedBy_encodeCheck (by cases m <;> simp_all [tileCommand, Instr.isEncode]) hc)
  have sprite (m : IndexMode) (hi : i = spriteCommand m)
      (h : encodeGrid i .sprites sprSide (spriteBlock m s) s = .next t) : CommandEffect i s t := by
    rcases checked_cases h with ⟨hc, rfl⟩ | ⟨hc, rfl⟩
    · exact .sprites m hi hc
    · exact .raises _ hc (raisedBy_encodeCheck (by cases m <;> simp_all [spriteCommand, Instr.isEncode]) hc)
  have bits (m : ColourMode) (hi : i = bitmapCommand m)
      (h : encodeBitmap i m s = .next t) : CommandEffect i s t := by
    rcases checked_cases h with ⟨hc, rfl⟩ | ⟨hc, rfl⟩
    · exact .bitmap m hi hc
    · exact .raises _ hc (raisedBy_encodeCheck (by cases m <;> simp_all [bitmapCommand, Instr.isEncode]) hc)
  cases i with
  | endCmd => cases h; exact .ends rfl
  | qnt r g b => cases h; exact .scalar _ rfl
  | xlt r g b => cases h; exact .scalar _ rfl
  | t332 r g b => cases h; exact .scalar _ rfl
  | hwb idx => cases h; exact .scalar _ rfl
  | encTNearest => exact grid .nearest rfl h
  | encTExact => exact grid .exact rfl h
  | encSNearest => exact sprite .nearest rfl h
  | encSExact => exact sprite .exact rfl h
  | encBNearest => exact bits .nearest rfl h
  | encBExact => exact bits .exact rfl h
  | encBTrunc => exact bits .trunc rfl h
  | bank =>
    rcases checked_cases h with ⟨hc, rfl⟩ | ⟨hc, rfl⟩
    · exact .banks rfl hc
    · exact .raises _ hc (raisedBy_partitionCheck rfl hc)
  | page base size =>
    rcases checked_cases h with ⟨hc, rfl⟩ | ⟨hc, rfl⟩
    · exact .pages base size rfl hc
    · exact .raises _ hc (raisedBy_partitionCheck rfl hc)
  | emitH =>
    rcases checked_cases h with ⟨hc, rfl⟩ | ⟨hc, rfl⟩
    · exact .header rfl hc
    · refine .raises _ hc ?_
      rcases emitHCheck_cases s with h' | h' <;> simp_all [raisedBy, Instr.isEmit]
  | emitA =>
    rcases checked_cases h with ⟨hc, rfl⟩ | ⟨hc, rfl⟩
    · exact .assembler rfl hc
    · refine .raises _ hc ?_
      rcases emitACheck_cases s with h' | h' <;> simp_all [raisedBy, Instr.isEmit]

end Sys2Proof.Machine
end

