-- ==== Sys2Proof/Laws/Lists.lean ====
section
/-! SUPPORT. What the list shapes of the artefacts hold: a row-major array has the item of `(x, y)` at `y·cols + x`, and
the chunks of a list are its slices, in order, nothing added and nothing lost. -/

namespace Sys2Proof.Machine

open Sys2Proof

variable {α β : Type}

theorem rowMajor_succ (cols n : Nat) (f : Nat → Nat → α) :
    rowMajor cols (n + 1) f = rowMajor cols n f ++ (List.range cols).map (fun x => f x n) := by
  simp [rowMajor, List.range_succ]

@[simp] theorem rowMajor_length (cols rows : Nat) (f : Nat → Nat → α) :
    (rowMajor cols rows f).length = rows * cols := by
  induction rows with
  | zero => simp [rowMajor]
  | succ n ih => simp [rowMajor_succ, ih, Nat.succ_mul]

theorem rowMajor_getElem? {cols rows x y : Nat} (f : Nat → Nat → α) (hx : x < cols) (hy : y < rows) :
    (rowMajor cols rows f)[y * cols + x]? = some (f x y) := by
  induction rows with
  | zero => omega
  | succ n ih =>
    rw [rowMajor_succ]
    rcases Nat.lt_or_ge y n with h | h
    · have : y * cols + x < n * cols := by
        have := Nat.mul_le_mul_right cols (show y + 1 ≤ n from h)
        rw [Nat.succ_mul] at this; omega
      rw [List.getElem?_append_left (by simpa using this)]
      exact ih h
    · obtain rfl : y = n := by omega
      rw [List.getElem?_append_right (by simp)]
      simp [hx]

theorem mem_rowMajor {cols rows : Nat} {f : Nat → Nat → α} {a : α} :
    a ∈ rowMajor cols rows f ↔ ∃ x y, x < cols ∧ y < rows ∧ a = f x y := by
  simp only [rowMajor, List.mem_flatMap, List.mem_range, List.mem_map]
  exact ⟨fun ⟨y, hy, x, hx, h⟩ => ⟨x, y, hx, hy, h.symm⟩, fun ⟨x, y, hx, hy, h⟩ => ⟨y, hy, x, hx, h.symm⟩⟩

/-- A row-major array depends only on the items inside its bounds. -/
theorem rowMajor_congr {cols rows : Nat} {f g : Nat → Nat → α}
    (h : ∀ x y, x < cols → y < rows → f x y = g x y) : rowMajor cols rows f = rowMajor cols rows g := by
  unfold rowMajor
  refine List.flatMap_congr fun y hy => List.map_congr_left fun x hx => ?_
  exact h x y (List.mem_range.1 hx) (List.mem_range.1 hy)

@[simp] theorem gridUnits_length (side cols rows : Nat) (b : Nat → Nat → List Byte) :
    (gridUnits side cols rows b).length = rows * cols := by simp [gridUnits]

theorem gridUnits_getElem? {side cols rows tc tr : Nat} (b : Nat → Nat → List Byte) (hc : tc < cols) (hr : tr < rows) :
    (gridUnits side cols rows b)[tr * cols + tc]? =
      some ⟨BitVec.ofNat 16 (tr * cols + tc), b (side * tc) (side * tr)⟩ :=
  rowMajor_getElem? _ hc hr

theorem ceilDiv_eq_zero {n : Nat} (hn : 0 < n) : ceilDiv 0 n = 0 := by
  simp only [ceilDiv]; exact Nat.div_eq_of_lt (by omega)

theorem le_ceilDiv_mul (l : Nat) {n : Nat} (hn : 0 < n) : l ≤ ceilDiv l n * n := by
  have h := Nat.div_add_mod (l + n - 1) n
  have hm := Nat.mod_lt (l + n - 1) hn
  rw [Nat.mul_comm] at h
  simp only [ceilDiv]
  omega

theorem lt_ceilDiv_iff {l n k : Nat} (hn : 0 < n) : k < ceilDiv l n ↔ k * n < l := by
  rw [ceilDiv, Nat.lt_div_iff_mul_lt hn, Nat.mul_comm]
  omega

theorem chunk_length {l : List α} {n k : Nat} (hk : k < ceilDiv l.length n) (hn : 0 < n) :
    (chunk l n k).length = min n (l.length - k * n) := by
  have := (lt_ceilDiv_iff hn).1 hk
  simp only [chunk, slice, List.length_take, List.length_drop, Nat.succ_mul]
  omega

theorem chunk_eq_take_drop (l : List α) (n k : Nat) : chunk l n k = (l.drop (k * n)).take n := by
  simp only [chunk, slice, Nat.succ_mul]
  rcases Nat.le_total (k * n + n) l.length with h | h
  · rw [Nat.min_eq_left h]; congr 1; omega
  · rw [Nat.min_eq_right h, List.take_of_length_le (by simp), List.take_of_length_le (by simp; omega)]

theorem flatMap_chunk (l : List α) (n k : Nat) : (List.range k).flatMap (chunk l n) = l.take (k * n) := by
  induction k with
  | zero => simp
  | succ k ih =>
    rw [List.range_succ, List.flatMap_append, ih]
    simp [chunk_eq_take_drop, Nat.succ_mul, List.take_add]

/-- The chunks of a list are the list. -/
theorem flatMap_all_chunks (l : List α) {n : Nat} (hn : 0 < n) :
    (List.range (ceilDiv l.length n)).flatMap (chunk l n) = l := by
  rw [flatMap_chunk]; exact List.take_of_length_le (le_ceilDiv_mul _ hn)

@[simp] theorem split_length (f : List Byte) (ps base : Nat) : (split f ps base).length = ceilDiv f.length ps := by
  simp [split]

theorem split_getElem? {f : List Byte} {ps k : Nat} (base : Nat) (h : k < ceilDiv f.length ps) :
    (split f ps base)[k]? = some ⟨BitVec.ofNat 16 (base + k), chunk f ps k⟩ := by
  simp [split, h]

theorem split_flatMap_bytes (f : List Byte) {ps : Nat} (base : Nat) (h : 0 < ps) :
    (split f ps base).flatMap EncUnit.bytes = f := by
  simp only [split, List.flatMap_map]
  exact flatMap_all_chunks f h

end Sys2Proof.Machine
end

