-- ==== Sys2Proof/Laws/Memory.lean ====
section
/-! SUPPORT. What memory operations do: a read after a write, and the canonical form every operation keeps. -/

namespace Sys2Proof.Machine

open Sys2Proof

variable {w : Nat}

@[simp] theorem Memory.read_nil (k : Nat) : Memory.read ([] : Memory w) k = 0#w := rfl

theorem Memory.ascending_mono {lo lo' : Nat} (h : lo' ≤ lo) :
    ∀ {m : Memory w}, Memory.ascending lo m = true → Memory.ascending lo' m = true
  | [], _ => rfl
  | (a, v) :: m, hm => by
    simp only [Memory.ascending, Bool.and_eq_true, decide_eq_true_eq] at hm ⊢
    exact ⟨⟨by omega, hm.1.2⟩, hm.2⟩

/-- Below the lower bound nothing is listed. -/
theorem Memory.read_below {lo k : Nat} (h : k < lo) :
    ∀ {m : Memory w}, Memory.ascending lo m = true → m.read k = 0#w
  | [], _ => rfl
  | (a, v) :: m, hm => by
    simp only [Memory.ascending, Bool.and_eq_true, decide_eq_true_eq] at hm
    have ha : a ≠ k := by omega
    simp only [Memory.read, ha, if_false]
    exact Memory.read_below (by omega) hm.2

/-- A read after a write to the same cell gives the value written. -/
theorem Memory.read_write_same (k : Nat) (v : BitVec w) :
    ∀ {m : Memory w} {lo : Nat}, Memory.ascending lo m = true → (m.write k v).read k = v
  | [], _, _ => by
    unfold Memory.write; split <;> simp_all [Memory.read]
  | (a, u) :: m, lo, hm => by
    simp only [Memory.ascending, Bool.and_eq_true, decide_eq_true_eq] at hm
    have below : k < a + 1 → Memory.read m k = 0#w := fun h => Memory.read_below h hm.2
    unfold Memory.write
    split
    · next h =>
      split
      · next hv =>
        have ha : a ≠ k := by omega
        simpa [Memory.read, ha, hv] using below (by omega)
      · simp [Memory.read]
    · split
      · next hk =>
        split
        · next hv => rw [hv]; exact below (by omega)
        · simp [Memory.read]
      · next hk =>
        have ha : a ≠ k := fun h => hk h.symm
        simp only [Memory.read, ha, if_false]
        exact Memory.read_write_same k v hm.2

/-- A write leaves every other cell as it was. -/
theorem Memory.read_write_other {k j : Nat} (v : BitVec w) (h : j ≠ k) :
    ∀ m : Memory w, (m.write k v).read j = m.read j
  | [] => by
    unfold Memory.write; split <;> simp [Memory.read, Ne.symm h]
  | (a, u) :: m => by
    unfold Memory.write
    split
    · split <;> simp [Memory.read, Ne.symm h]
    · split
      · next hk => split <;> simp [Memory.read, ← hk, Ne.symm h]
      · simp only [Memory.read, Memory.read_write_other v h m]

theorem Memory.ascending_write (k : Nat) (v : BitVec w) :
    ∀ {m : Memory w} {lo : Nat}, lo ≤ k → Memory.ascending lo m = true →
      Memory.ascending lo (m.write k v) = true
  | [], lo, hk, _ => by
    unfold Memory.write; split <;> simp_all [Memory.ascending]
  | (a, u) :: m, lo, hk, hm => by
    simp only [Memory.ascending, Bool.and_eq_true, decide_eq_true_eq] at hm
    unfold Memory.write
    split
    · split
      · simp_all [Memory.ascending]
      · next h hv =>
        simp only [Memory.ascending, Bool.and_eq_true, decide_eq_true_eq]
        exact ⟨⟨hk, hv⟩, ⟨by omega, hm.1.2⟩, hm.2⟩
    · split
      · next hka =>
        split
        · exact Memory.ascending_mono (by omega) hm.2
        · next hv =>
          simp only [Memory.ascending, Bool.and_eq_true, decide_eq_true_eq]
          exact ⟨⟨hk, hv⟩, hka ▸ hm.2⟩
      · simp only [Memory.ascending, Bool.and_eq_true, decide_eq_true_eq]
        exact ⟨hm.1, Memory.ascending_write k v (by omega) hm.2⟩

theorem Memory.mem_write {k : Nat} {v : BitVec w} {c : Nat × BitVec w} :
    ∀ {m : Memory w}, c ∈ m.write k v → c ∈ m ∨ c = (k, v)
  | [], h => by
    unfold Memory.write at h; split at h <;> simp_all
  | (a, u) :: m, h => by
    unfold Memory.write at h
    split at h
    · split at h
      · exact .inl h
      · simp only [List.mem_cons] at h ⊢; tauto
    · split at h
      · split at h
        · exact .inl (List.mem_cons_of_mem _ h)
        · simp only [List.mem_cons] at h ⊢; tauto
      · simp only [List.mem_cons] at h ⊢
        rcases h with h | h
        · exact .inl (.inl h)
        · rcases Memory.mem_write h with h | h
          · exact .inl (.inr h)
          · exact .inr h

theorem Memory.wf_ascending {cap : Nat} {m : Memory w} (h : Memory.wf cap m = true) :
    Memory.ascending 0 m = true := by
  simp only [Memory.wf, Bool.and_eq_true] at h; exact h.1

/-- Every write inside the memory keeps the canonical form. -/
theorem Memory.wf_write {cap k : Nat} {m : Memory w} (v : BitVec w) (hk : k < cap) (h : Memory.wf cap m = true) :
    Memory.wf cap (m.write k v) = true := by
  simp only [Memory.wf, Bool.and_eq_true, List.all_eq_true, decide_eq_true_eq] at h ⊢
  refine ⟨Memory.ascending_write k v (Nat.zero_le k) h.1, fun c hc => ?_⟩
  rcases Memory.mem_write hc with hc | hc
  · exact h.2 c hc
  · rw [hc]; exact hk

@[simp] theorem Memory.wf_nil (cap : Nat) : Memory.wf cap ([] : Memory w) = true := rfl

/-- Whatever raw contents say, the canonical memory they describe is in canonical form. -/
theorem Memory.wf_canon (cap : Nat) (raw : List (Nat × BitVec w)) : Memory.wf cap (Memory.canon cap raw) = true := by
  suffices h : ∀ (raw : List (Nat × BitVec w)) (m : Memory w), Memory.wf cap m = true →
      Memory.wf cap (raw.foldl (fun m c => if c.1 < cap then m.write c.1 c.2 else m) m) = true from
    h raw [] rfl
  intro raw
  induction raw with
  | nil => exact fun m h => h
  | cons c raw ih =>
    intro m h
    refine ih _ ?_
    dsimp only
    split
    · next hc => exact Memory.wf_write c.2 hc h
    · exact h

/-- Memories in canonical form that read alike everywhere are equal. -/
theorem Memory.ext_of_read : ∀ {m m' : Memory w} {lo : Nat}, Memory.ascending lo m = true →
    Memory.ascending lo m' = true → (∀ k, m.read k = m'.read k) → m = m'
  | [], [], _, _, _, _ => rfl
  | [], (a, v) :: m', lo, _, h', he => by
    simp only [Memory.ascending, Bool.and_eq_true, decide_eq_true_eq] at h'
    exact absurd (by simpa [Memory.read] using (he a).symm) h'.1.2
  | (a, v) :: m, [], lo, h, _, he => by
    simp only [Memory.ascending, Bool.and_eq_true, decide_eq_true_eq] at h
    exact absurd (by simpa [Memory.read] using he a) h.1.2
  | (a, v) :: m, (b, u) :: m', lo, h, h', he => by
    simp only [Memory.ascending, Bool.and_eq_true, decide_eq_true_eq] at h h'
    have hm : ∀ k ≤ a, Memory.read m k = 0#w := fun k hk => Memory.read_below (by omega) h.2
    have hm' : ∀ k ≤ b, Memory.read m' k = 0#w := fun k hk => Memory.read_below (by omega) h'.2
    have hab : a = b := by
      rcases Nat.lt_trichotomy a b with hlt | heq | hgt
      · have := he a
        simp [Memory.read, show b ≠ a by omega, hm' a (by omega)] at this
        exact absurd this h.1.2
      · exact heq
      · have := he b
        simp [Memory.read, show a ≠ b by omega, hm b (by omega)] at this
        exact absurd this.symm h'.1.2
    subst hab
    have hv : v = u := by simpa [Memory.read] using he a
    subst hv
    have : m = m' := Memory.ext_of_read h.2 h'.2 fun k => by
      by_cases hk : a = k
      · rw [hm k (by omega), hm' k (by omega)]
      · simpa [Memory.read, hk] using he k
    rw [this]

end Sys2Proof.Machine
end

