-- ==== Sys2Proof/Laws/PerInstr.lean ====
section
/-! SUPPORT. Statements made per instruction. `WordFitsRow`: the encoder's word of a command has the fixed bits of the
command's row of the opcode map (30_encoding.md R93). -/

namespace Sys2Proof.Laws

open Sys2Proof

/-- The command's word has the match bits of its row under the row's mask. -/
def WordFitsRow.Statement (i : Instr) : Prop :=
  ∃ r ∈ opcodeTable, r.1 = i.mnemonic ∧ encode i &&& r.2.2 = r.2.1

/-- The mask of a row that fixes the opcode only keeps the opcode. -/
theorem wordOf_and_opMask (op : Byte) (pl : BitVec 24) : wordOf op pl &&& 0xFF000000#32 = wordOf op 0 := by
  refine BitVec.eq_of_getLsbD_eq fun i hi => ?_
  simp only [wordOf, BitVec.getLsbD_and, BitVec.getLsbD_append]
  interval_cases i <;> simp

theorem wordOf_and_indexMask (op : Byte) (idx : BitVec 4) :
    wordOf op (0#20 ++ idx) &&& 0xFFFFFFF0#32 = wordOf op 0 := by
  refine BitVec.eq_of_getLsbD_eq fun i hi => ?_
  simp only [wordOf, BitVec.getLsbD_and, BitVec.getLsbD_append]
  interval_cases i <;> simp

theorem WordFitsRow.endCmd : WordFitsRow.Statement .endCmd :=
  ⟨("END", 0x00000000, 0xFFFFFFFF), by decide, rfl, by decide⟩
theorem WordFitsRow.qnt (r g b : Byte) : WordFitsRow.Statement (.qnt r g b) :=
  ⟨("QNT", 0x01000000, 0xFF000000), by decide, rfl, wordOf_and_opMask _ _⟩
theorem WordFitsRow.xlt (r g b : Byte) : WordFitsRow.Statement (.xlt r g b) :=
  ⟨("XLT", 0x02000000, 0xFF000000), by decide, rfl, wordOf_and_opMask _ _⟩
theorem WordFitsRow.t332 (r g b : Byte) : WordFitsRow.Statement (.t332 r g b) :=
  ⟨("T332", 0x03000000, 0xFF000000), by decide, rfl, wordOf_and_opMask _ _⟩
theorem WordFitsRow.hwb (idx : BitVec 4) : WordFitsRow.Statement (.hwb idx) :=
  ⟨("HWB", 0x04000000, 0xFFFFFFF0), by decide, rfl, wordOf_and_indexMask _ _⟩
theorem WordFitsRow.encTNearest : WordFitsRow.Statement .encTNearest :=
  ⟨("ENC.T_NEAREST", 0x10000000, 0xFFFFFFFF), by decide, rfl, by decide⟩
theorem WordFitsRow.encTExact : WordFitsRow.Statement .encTExact :=
  ⟨("ENC.T_EXACT", 0x10000001, 0xFFFFFFFF), by decide, rfl, by decide⟩
theorem WordFitsRow.encSNearest : WordFitsRow.Statement .encSNearest :=
  ⟨("ENC.S_NEAREST", 0x10000100, 0xFFFFFFFF), by decide, rfl, by decide⟩
theorem WordFitsRow.encSExact : WordFitsRow.Statement .encSExact :=
  ⟨("ENC.S_EXACT", 0x10000101, 0xFFFFFFFF), by decide, rfl, by decide⟩
theorem WordFitsRow.encBNearest : WordFitsRow.Statement .encBNearest :=
  ⟨("ENC.B_NEAREST", 0x10000200, 0xFFFFFFFF), by decide, rfl, by decide⟩
theorem WordFitsRow.encBExact : WordFitsRow.Statement .encBExact :=
  ⟨("ENC.B_EXACT", 0x10000201, 0xFFFFFFFF), by decide, rfl, by decide⟩
theorem WordFitsRow.encBTrunc : WordFitsRow.Statement .encBTrunc :=
  ⟨("ENC.B_TRUNC", 0x10000202, 0xFFFFFFFF), by decide, rfl, by decide⟩
theorem WordFitsRow.bank : WordFitsRow.Statement .bank :=
  ⟨("BANK", 0x20000000, 0xFFFFFFFF), by decide, rfl, by decide⟩
theorem WordFitsRow.page (base : Byte) (size : BitVec 16) : WordFitsRow.Statement (.page base size) :=
  ⟨("PAGE", 0x21000000, 0xFF000000), by decide, rfl, wordOf_and_opMask _ _⟩
theorem WordFitsRow.emitH : WordFitsRow.Statement .emitH :=
  ⟨("EMIT.H", 0x30000000, 0xFFFFFFFF), by decide, rfl, by decide⟩
theorem WordFitsRow.emitA : WordFitsRow.Statement .emitA :=
  ⟨("EMIT.A", 0x31000000, 0xFFFFFFFF), by decide, rfl, by decide⟩

end Sys2Proof.Laws
end

