-- ==== Sys2Proof/Laws/Step.lean ====
section
/-! SUPPORT. Everything a step can do, said once: a command, an illegal word, or one of the host's moves. -/

namespace Sys2Proof.Machine

open Sys2Proof

/-- The next states a move of the host can answer. -/
inductive HostEffect (s : State) : State → Prop where
  | ignored : HostEffect s s
  | start : s.run = false → HostEffect s s.start
  | reset : s.run = false → HostEffect s s.resetAction
  | width (v : BitVec 9) : s.run = false → HostEffect s { s with rw := v }
  | height (v : BitVec 8) : s.run = false → HostEffect s { s with rh := v }
  | valid (v : Bool) : s.run = false → HostEffect s { s with rv := v }
  | rasterByte (a : Nat) (v : Byte) : s.run = false → a < rasCapacity →
      HostEffect s { s with ras := s.ras.write a v }
  | commandWord (i : Nat) (w : Word) : s.run = false → i < cmdDepth →
      HostEffect s { s with cmd := s.cmd.write i w }

/-- Everything a move of the host can do. -/
theorem hostMove_effect {m : HostMove} {s t : State} (h : hostMove m s = .next t) : HostEffect s t := by
  unfold hostMove at h
  split at h
  · simp only [Host.Outcome.next.injEq] at h
    subst h
    unfold State.writeReg
    split
    · unfold State.writeCtrl
      split
      · exact .ignored
      · next hr =>
        have hr : s.run = false := by simpa using hr
        split
        · exact .reset hr
        · split
          · exact .start hr
          · exact .ignored
    · split
      · exact .ignored
      · exact .width _ (by simp_all)
    · split
      · exact .ignored
      · exact .height _ (by simp_all)
    · split
      · exact .ignored
      · exact .valid _ (by simp_all)
    · exact .ignored
  · split at h
    · cases h
    · split at h
      · cases h; exact .rasterByte _ _ (by simp_all) ‹_›
      · cases h
  · split at h
    · cases h
    · split at h
      · cases h; exact .commandWord _ _ (by simp_all) ‹_›
      · cases h

/-- Everything a step can do. -/
theorem step_cases {s t : State} (h : step s = .next t) :
    (s.run = true ∧ ∃ i, decode s.fetch = some i ∧ exec i s = .next t) ∨
    (s.run = true ∧ decode s.fetch = none ∧ t = s.raise .illegalCommand s.fetch) ∨
    (s.run = false ∧ ∃ m rest, s.host = m :: rest ∧ HostEffect { s with host := rest } t) := by
  unfold step at h
  split at h
  · next hr =>
    split at h
    · exact .inl ⟨hr, _, ‹_›, h⟩
    · exact .inr (.inl ⟨hr, ‹_›, by cases h; rfl⟩)
  · next hr =>
    unfold hostTurn at h
    split at h
    · cases h
    · exact .inr (.inr ⟨by simpa using hr, _, _, ‹_›, hostMove_effect h⟩)

/-- Fetching at 256 or above gives an illegal word (10_state.md R35). -/
theorem fetch_of_ge {s : State} (h : 256 ≤ s.pc.toNat) : s.fetch = 0xFFFFFFFF#32 := by
  unfold State.fetch; rw [if_neg (by simpa using h)]; rfl

theorem fetch_of_lt {s : State} (h : s.pc.toNat < 256) : s.fetch = s.cmd.read s.pc.toNat := by
  unfold State.fetch; rw [if_pos h]

end Sys2Proof.Machine
end

