-- ==== Sys2Proof/Laws/Text.lean ====
section
/-! SUPPORT. What the parts of a text are made of: a property of bytes holds of a joined text when it holds of its
pieces; digits are digits; how many lines an array has. -/

namespace Sys2Proof.Machine

open Sys2Proof

/-- A byte property holds of `join` when it holds of the separator and of every item. -/
theorem forall_mem_intercalate {P : Byte → Prop} {sep : List Byte} (hs : ∀ v ∈ sep, P v) :
    ∀ {l : List (List Byte)}, (∀ x ∈ l, ∀ v ∈ x, P v) → ∀ v ∈ sep.intercalate l, P v
  | [], _, v, hv => by simp [List.intercalate] at hv
  | [x], h, v, hv => h x (by simp) v (by simpa [List.intercalate] using hv)
  | x :: y :: xs, h, v, hv => by
    have ih := forall_mem_intercalate hs (l := y :: xs) fun z hz => h z (List.mem_cons_of_mem _ hz)
    simp only [List.intercalate, List.intersperse_cons_cons, List.flatten_cons, List.mem_append] at hv ih
    rcases hv with hv | hv | hv
    · exact h x List.mem_cons_self v hv
    · exact hs v hv
    · exact ih v hv

/-- Each digit of `Hex2` is `0` to `9` or `A` to `F`. -/
theorem hex2_digits (v : Byte) : ∀ d ∈ hex2 v, 48 ≤ d.toNat ∧ d.toNat ≤ 70 := by
  have digit (d : Nat) (h : d < 16) : 48 ≤ (hexDigit d).toNat ∧ (hexDigit d).toNat ≤ 70 := by
    unfold hexDigit
    split <;> rw [BitVec.toNat_ofNat] <;> omega
  have := v.isLt
  intro d hd
  rcases List.mem_cons.1 hd with rfl | hd
  · exact digit _ (by omega)
  · rw [List.mem_singleton.1 hd]; exact digit _ (by omega)

/-- A byte property holds of a line of literals when it holds of the separator, the prefix and the digits. -/
theorem forall_mem_literals {P : Byte → Prop} {pre : List Byte} (hsep : ∀ v ∈ ascii ", ", P v) (hpre : ∀ v ∈ pre, P v)
    (hdig : ∀ d : Byte, 48 ≤ d.toNat → d.toNat ≤ 70 → P d) (c : List Byte) : ∀ v ∈ literals pre c, P v := by
  refine forall_mem_intercalate hsep fun x hx v hv => ?_
  obtain ⟨b, _, rfl⟩ := List.mem_map.1 hx
  rcases List.mem_append.1 hv with hv | hv
  · exact hpre v hv
  · exact hdig v (hex2_digits b v hv).1 (hex2_digits b v hv).2

/-- A byte property holds of indented lines when it holds of the lines and of what is put around them. -/
theorem forall_mem_commaLines {P : Byte → Prop} (hfix : ∀ v ∈ ascii "    " ++ ascii "," ++ eol, P v) :
    ∀ {l : List (List Byte)}, (∀ x ∈ l, ∀ v ∈ x, P v) → ∀ v ∈ commaLines l, P v
  | [], _, v, hv => by simp [commaLines] at hv
  | [x], h, v, hv => by
    simp only [commaLines, List.mem_append] at hv hfix
    rcases hv with (hv | hv) | hv
    · exact hfix v (.inl (.inl hv))
    · exact h x (by simp) v hv
    · exact hfix v (.inr hv)
  | x :: y :: xs, h, v, hv => by
    have ih := forall_mem_commaLines hfix (l := y :: xs) fun z hz => h z (List.mem_cons_of_mem _ hz)
    simp only [commaLines, List.mem_append] at hv hfix ih
    rcases hv with (((hv | hv) | hv) | hv) | hv
    · exact hfix v (.inl (.inl hv))
    · exact h x List.mem_cons_self v hv
    · exact hfix v (.inl (.inr hv))
    · exact hfix v (.inr hv)
    · exact ih v hv

/-- Line `i` of `n` indented lines ends with a comma when `i < n - 1` (45_declaration.md R240(e), (f)). -/
theorem commaLines_eq_flatMap_zipIdx : ∀ (l : List (List Byte)) {k n : Nat}, k + l.length = n →
    commaLines l = (l.zipIdx k).flatMap fun x =>
      ascii "    " ++ x.1 ++ (if x.2 + 1 < n then ascii "," else []) ++ eol
  | [], _, _, _ => rfl
  | [x], k, n, h => by
    have hk : ¬ k + 1 < n := by simp only [List.length_singleton] at h; omega
    simp [commaLines, hk]
  | x :: y :: xs, k, n, h => by
    simp only [List.length_cons] at h
    rw [List.zipIdx_cons, List.flatMap_cons,
      ← commaLines_eq_flatMap_zipIdx (y :: xs) (n := n) (by simp only [List.length_cons]; omega)]
    simp [commaLines, show k + 1 < n by omega]

/-- With fuel enough, every digit of a decimal numeral is a digit. -/
theorem decDigits_digits : ∀ (f n : Nat), ∀ d ∈ decDigits f n, 48 ≤ d.toNat ∧ d.toNat ≤ 57
  | 0, _, _, hd => by simp [decDigits] at hd
  | f + 1, n, d, hd => by
    unfold decDigits at hd
    split at hd
    · next hn =>
      rw [List.mem_singleton.1 hd, BitVec.toNat_ofNat]; omega
    · rcases List.mem_append.1 hd with hd | hd
      · exact decDigits_digits f _ d hd
      · rw [List.mem_singleton.1 hd, BitVec.toNat_ofNat]; omega

@[simp] theorem textLines_length (b : List Byte) (n : Nat) : (textLines b n).length = ceilDiv b.length n := by
  simp [textLines]

/-- Line `i` is chunk `i`. -/
theorem textLines_getElem? {b c : List Byte} {n i : Nat} (h : (textLines b n)[i]? = some c) :
    i < ceilDiv b.length n ∧ c = chunk b n i := by
  simp only [textLines, List.getElem?_map, Option.map_eq_some_iff] at h
  obtain ⟨j, hj, rfl⟩ := h
  obtain ⟨hlt, hj⟩ := List.getElem?_eq_some_iff.1 hj
  simp only [List.length_range, List.getElem_range] at hj hlt
  exact ⟨hlt, by rw [hj]⟩

end Sys2Proof.Machine
end

