-- ==== Sys2Proof/Tests/Slice0.lean ====
section
/-! SUPPORT. Tests. Expected values are the spec's own: 95_test_vectors.md (vector named in the comment), the decode
table of its section 3.7, and words written out from 30_encoding.md R93. The configuration is its test configuration
TPAL, THWB (part 2), which is not a claim about the hardware's palette. -/

namespace Sys2Proof.Machine.Tests

open Sys2Proof Sys2Proof.Machine

-- One test after another: kernel evaluations that wait for each other would each hold a thread.
set_option Elab.async false

/-- TPAL (95_test_vectors.md part 2). -/
def tpal : Vector Rgb 16 :=
  #v[⟨0,0,0⟩, ⟨0,0,215⟩, ⟨215,0,0⟩, ⟨215,0,215⟩, ⟨0,215,0⟩, ⟨0,215,215⟩, ⟨215,215,0⟩, ⟨215,215,215⟩,
     ⟨0,0,0⟩, ⟨0,0,255⟩, ⟨255,0,0⟩, ⟨255,0,255⟩, ⟨0,255,0⟩, ⟨0,255,255⟩, ⟨255,255,0⟩, ⟨255,255,255⟩]

/-- THWB (95_test_vectors.md part 2). -/
def thwb : Vector Byte 16 :=
  #v[0x00, 0x03, 0xC0, 0xC3, 0x18, 0x1B, 0xD8, 0xDB, 0x00, 0x03, 0xE0, 0xE3, 0x1C, 0x1F, 0xFC, 0xFF]

/-- The test configuration with `NAME = "img"`. -/
def tcfg : Config := ⟨tpal, thwb, ascii "img"⟩

/-- Raster memory holding the pixels given as bytes R, G, B, A in order. -/
def loadBytes (bytes : List Byte) : Memory 8 := Memory.canon rasCapacity (bytes.zipIdx.map fun p => (p.2, p.1))

/-- A unit that START left running, with a `w` by `h` raster and one command. -/
def running (w h : Nat) (ras : Memory 8) (word : Word) : State :=
  { State.cleared tcfg ras [] 0 with
    run := true, rv := true, rw := BitVec.ofNat 9 w, rh := BitVec.ofNat 8 h, cmd := Memory.write [] 0 word }

/-- Does a step answer a next state on which `p` holds? -/
def stepGives (s : State) (p : State → Bool) : Bool :=
  match step s with
  | .next t => p t
  | .fault _ => false
  | .refused _ => false

/-- Does a command answer a next state on which `p` holds? -/
def execGives (i : Instr) (s : State) (p : State → Bool) : Bool :=
  match exec i s with
  | .next t => p t
  | .fault _ => false
  | .refused _ => false

/-! Checks of WellFormed: an ill-formed term for each, refused. -/

theorem test_colour_operand_range : (Source.qnt 0 0 256).wellFormed = false := by decide
theorem test_xlt_operand_range : (Source.xlt 256 0 0).wellFormed = false := by decide
theorem test_t332_operand_range : (Source.t332 0 256 0).wellFormed = false := by decide
theorem test_hwb_operand_range : (Source.hwb 16).wellFormed = false := by decide
theorem test_no_trunc_tiles : (Source.encT (some .trunc)).wellFormed = false := by decide
theorem test_no_trunc_sprites : (Source.encS (some .trunc)).wellFormed = false := by decide
theorem test_page_base_range : (Source.page 256 none).wellFormed = false := by decide
theorem test_page_size_range : (Source.page 0 (some 65536)).wellFormed = false := by decide
theorem test_paged_base_range : (Source.exportPaged 256).wellFormed = false := by decide
theorem test_well_formed_line : (Source.page 255 (some 65535)).wellFormed = true := by decide
theorem test_palette_black_needed : ¬({ tcfg with pal := tpal.set 8 white } : Config).PalAdmitted := by decide
theorem test_palette_white_needed : ¬({ tcfg with pal := tpal.set 15 black } : Config).PalAdmitted := by decide
theorem test_palette_distinct_needed : ¬({ tcfg with pal := tpal.set 3 ⟨215, 0, 0⟩ } : Config).PalAdmitted := by decide
theorem test_palette_admitted : tcfg.PalAdmitted := by decide +kernel
/-- 93_implementation_defined.md G3: the test configuration has HWB_TRUNC. -/
theorem test_hwb_trunc : HwbTrunc tcfg := by decide +kernel
theorem test_name_empty_refused : ¬({ tcfg with name := [] } : Config).NameAdmitted := by decide
theorem test_name_digit_first_refused : ¬({ tcfg with name := ascii "1a" } : Config).NameAdmitted := by decide
theorem test_name_upper_refused : ¬({ tcfg with name := ascii "aB" } : Config).NameAdmitted := by decide
theorem test_name_admitted : tcfg.NameAdmitted := by decide
theorem test_name_too_long_refused : ¬({ tcfg with name := List.replicate 33 97 } : Config).NameAdmitted := by decide
/-- U6, U8: an admitted configuration stands as it is. -/
theorem test_conform_keeps : tcfg.conform = tcfg := by decide +kernel
/-- R10: the unit never runs with a palette that is not admitted; HWB is under no law (R11). -/
theorem test_conform_mends : ({ tcfg with pal := tpal.set 8 white, name := [] } : Config).conform.PalAdmitted ∧
    ({ tcfg with pal := tpal.set 8 white, name := [] } : Config).conform.hwb = thwb := by decide +kernel

/-! Decoding: words written out bit by bit from R90 to R93, and the illegal words of section 3.7. -/

theorem test_decode_end : decode 0b00000000_000000000000000000000000 = some .endCmd := by decide
theorem test_decode_qnt : decode 0b00000001_10101011_11001101_11101111 = some (.qnt 171 205 239) := by decide
theorem test_decode_xlt : decode 0b00000010_00000000_00000000_00000001 = some (.xlt 0 0 1) := by decide
theorem test_decode_t332 : decode 0b00000011_11111111_00000000_11111111 = some (.t332 255 0 255) := by decide
theorem test_decode_hwb : decode 0b00000100_00000000000000000000_1111 = some (.hwb 15) := by decide
theorem test_decode_enc_t_nearest : decode 0b00010000_00000000000000_00_000000_00 = some .encTNearest := by decide
theorem test_decode_enc_t_exact : decode 0b00010000_00000000000000_00_000000_01 = some .encTExact := by decide
theorem test_decode_enc_s_nearest : decode 0b00010000_00000000000000_01_000000_00 = some .encSNearest := by decide
theorem test_decode_enc_s_exact : decode 0b00010000_00000000000000_01_000000_01 = some .encSExact := by decide
theorem test_decode_enc_b_nearest : decode 0b00010000_00000000000000_10_000000_00 = some .encBNearest := by decide
theorem test_decode_enc_b_exact : decode 0b00010000_00000000000000_10_000000_01 = some .encBExact := by decide
theorem test_decode_enc_b_trunc : decode 0b00010000_00000000000000_10_000000_10 = some .encBTrunc := by decide
theorem test_decode_bank : decode 0b00100000_000000000000000000000000 = some .bank := by decide
theorem test_decode_page : decode 0b00100001_00101000_0000000000010100 = some (.page 40 20) := by decide
theorem test_decode_emit_h : decode 0b00110000_000000000000000000000000 = some .emitH := by decide
theorem test_decode_emit_a : decode 0b00110001_000000000000000000000000 = some .emitA := by decide
theorem test_illegal_words :
    [0x00000001, 0x04000010, 0x04800000, 0x05000000, 0x10000002, 0x10000003, 0x10000102, 0x10000300, 0x10000400,
     0x10000004, 0x11000000, 0x20000001, 0x30000001, 0x31800000, 0x32000000, 0xFFFFFFFF].all
      (fun w => (decode w).isNone) = true := by decide
theorem test_table_word : decodeTableWord 32 0x0400000F = some (.hwb 15) := by decide

/-! The assembler: program P1 and its macro, P4's PAGE line, and errors (R97, R98). -/

theorem test_assemble_p1 :
    assembleProgram ["ENC.T NEAREST      ; 0: 10000000", "EMIT.H", "", "END"] =
      some [0x10000000, 0x30000000, 0x00000000] := by decide +kernel
theorem test_assemble_paged_macro :
    assembleProgram ["EXPORT.PAGED 40"] = some [0x10000202, 0x21280000, 0x31000000, 0x00000000] := by decide +kernel
theorem test_assemble_range_error : assembleProgram ["QNT 0, 0, 0x100"] = none := by decide +kernel

/-! Colour functions and scalar commands (sections 3.1, 3.2). -/

/-- 3.2, pc 4: a tie between indices 1 and 9 keeps the lower. -/
theorem test_qnt_tie : execGives (.qnt 0 0 235) (running 0 0 [] 0) (fun t => t.res == 1 && t.pc == 1) = true := by
  decide +kernel
/-- 3.2, pc 5: past the tie. -/
theorem test_qnt_past_tie : execGives (.qnt 0 0 236) (running 0 0 [] 0) (fun t => t.res == 9) = true := by
  decide +kernel
/-- X1: index 8 is never returned. -/
theorem test_qnt_black : execGives (.qnt 0 0 0) (running 0 0 [] 0) (fun t => t.res == 0) = true := by decide +kernel
theorem test_xlt_match : execGives (.xlt 215 215 215) (running 0 0 [] 0) (fun t => t.res == 7) = true := by
  decide +kernel
theorem test_xlt_fallback : execGives (.xlt 255 255 254) (running 0 0 [] 0) (fun t => t.res == 0) = true := by
  decide +kernel
theorem test_t332 : execGives (.t332 37 100 137) (running 0 0 [] 0) (fun t => t.res == 0x2E) = true := by
  decide +kernel
theorem test_t332_kept_bits : execGives (.t332 32 32 64) (running 0 0 [] 0) (fun t => t.res == 0x25) = true := by
  decide +kernel
theorem test_hwb : execGives (.hwb 7) (running 0 0 [] 0) (fun t => t.res == 0xDB) = true := by decide +kernel

/-! Tiles (section 3.3), sprites (3.4), bitmaps (3.5). -/

/-- A pixel's bytes. -/
def px (c : Rgb) (a : Byte) : List Byte := [c.r, c.g, c.b, a]

/-- T1: `RAS(x,y) = TPAL[(x+y) mod 16]`. -/
def rasT1 : Memory 8 :=
  loadBytes ((List.range 8).flatMap fun y => (List.range 8).flatMap fun x => px (tpal.toList.getD (x + y) black) 255)

theorem test_enc_t_nearest :
    stepGives (running 8 8 rasT1 0x10000000) (fun t => (t.units.map EncUnit.bytes).map (List.take 10) ==
      [[0x01, 0x23, 0x45, 0x67, 0x12, 0x34, 0x56, 0x70, 0x23, 0x45]]) = true := by decide +kernel
/-- T2x: 8 by 8 of (255,255,254) falls back to nibble 0. -/
theorem test_enc_t_exact :
    stepGives (running 8 8 (loadBytes ((List.replicate 64 (px ⟨255, 255, 254⟩ 255)).flatten)) 0x10000001)
      (fun t => t.units == [⟨0, List.replicate 32 0x00⟩]) = true := by decide +kernel
/-- S1's first row: alpha 127 is transparent, alpha 128 opaque, index 8 appears as 0. -/
def rasS1 : Memory 8 :=
  loadBytes ((List.range 16).flatMap fun x =>
    px (tpal.toList.getD x black) (if x = 0 then 127 else if x = 1 then 128 else 255))

theorem test_enc_s_nearest :
    stepGives (running 16 16 rasS1 0x10000100) (fun t => (t.units.map EncUnit.bytes).map (List.take 17) ==
      [[0xE3, 0x01, 0x02, 0x03, 0x04, 0x05, 0x06, 0x07, 0x00, 0x09, 0x0A, 0x0B, 0x0C, 0x0D, 0x0E, 0x0F, 0xE3]]) = true := by
  decide +kernel
/-- S2x: the alpha test comes before the fallback. -/
theorem test_enc_s_exact :
    stepGives (running 16 16 (loadBytes (px ⟨1, 2, 3⟩ 255 ++ px ⟨1, 2, 3⟩ 0)) 0x10000101)
      (fun t => (t.units.map EncUnit.bytes).map (List.take 2) == [[0x00, 0xE3]]) = true := by decide +kernel
/-- B1's raster. -/
def rasB1 : Memory 8 :=
  loadBytes (px black 255 ++ px white 255 ++ px ⟨128, 128, 128⟩ 0 ++ px ⟨255, 255, 254⟩ 255)

theorem test_enc_b_nearest :
    stepGives (running 4 1 rasB1 0x10000200) (fun t => t.flat == [0x00, 0xFF, 0xDB, 0xFF]) = true := by decide +kernel
theorem test_enc_b_exact :
    stepGives (running 4 1 rasB1 0x10000201) (fun t => t.flat == [0x00, 0xFF, 0x00, 0x00]) = true := by decide +kernel
theorem test_enc_b_trunc :
    stepGives (running 4 1 rasB1 0x10000202) (fun t => t.flat == [0x00, 0xFF, 0x92, 0xFF]) = true := by decide +kernel
/-- T6: a raster narrower than a block gives zero units without fault. -/
theorem test_zero_units :
    stepGives (running 7 192 [] 0x10000000)
      (fun t => t.units == [] && t.uv && t.gcols == 0 && t.grows == 24 && t.fault == .none) = true := by decide +kernel

/-! Partition (section 3.6), text (3.9), END. -/

/-- A 1×192 bitmap encoded, 96 bytes 00 then 96 bytes FF (P4b). -/
def encoded (word : Word) : State :=
  { running 1 192 [] word with fv := true, flat := List.replicate 96 0x00 ++ List.replicate 96 0xFF }

theorem test_bank : stepGives (encoded 0x20000000)
    (fun t => t.units.map (fun u => (u.num, u.bytes.length)) == [(0, 192)] && t.ukind == .banks && t.grows == 1) = true := by
  decide +kernel
/-- `PAGE 7, 20`: page 11 holds 16 × 00 then 4 × FF; the last page has 12 bytes. -/
theorem test_page : stepGives (encoded 0x21070014)
    (fun t => t.units[4]? == some ⟨11, List.replicate 16 0x00 ++ List.replicate 4 0xFF⟩ &&
      t.units.length == 10 && (t.units.map fun u => u.bytes.length).getLast? == some 12) = true := by decide +kernel
/-- `PAGE 255, 96`: no wrap of page numbers. -/
theorem test_page_no_wrap : stepGives (encoded 0x21FF0060)
    (fun t => t.units.map EncUnit.num == [255, 256]) = true := by decide +kernel
/-- 3.9: the 153-byte text of zero tiles. -/
theorem test_emit_h : execGives .emitH { running 7 192 [] 0 with uv := true, grows := 24 }
    (fun t => t.txt == ascii "#ifndef IMG_H\n#define IMG_H\n\n#define IMG_WIDTH 7\n#define IMG_HEIGHT 192\n" ++
      ascii "#define IMG_SIZE 0\n\nconst unsigned char * const img_tile_table[0] = " ++ [0x7B, 0x0A, 0x7D] ++
      ascii ";\n\n#endif\n" && t.txt.length == 153) = true := by decide +kernel
/-- The shape of P5's sections, on one page of one byte. -/
theorem test_emit_a : execGives .emitA
    { running 1 192 [] 0 with uv := true, ukind := .pages, units := [⟨2, [0xE3]⟩] }
    (fun t => t.txt == ascii "SECTION PAGE_2\nPUBLIC _img_page_2\ndefc _img_page_2_size = 1\n_img_page_2:\n" ++
      ascii "    defb $E3\n\n") = true := by decide +kernel
theorem test_end : stepGives (running 0 0 [] 0) (fun t => t.done && !t.run && t.pc == 0) = true := by decide

/-! Faults (section 3.8). -/

/-- F1. -/
theorem test_input_not_found : stepGives { running 4 1 [] 0x10000200 with rv := false }
    (fun t => t.fault == .inputNotFound && t.finfo == 0x10000200 && !t.run && t.pc == 0) = true := by decide +kernel
/-- F5b: InputNotFound comes before DimensionConstraintViolation. -/
theorem test_fault_order : stepGives { running 300 8 [] 0x10000000 with rv := false }
    (fun t => t.fault == .inputNotFound) = true := by decide +kernel
/-- F18: height 193. -/
theorem test_height : stepGives (running 8 193 [] 0x10000200)
    (fun t => t.fault == .dimensionConstraintViolation) = true := by decide +kernel
/-- F14: IllegalCommand comes before SequenceViolation. -/
theorem test_illegal_first : stepGives (running 4 1 [] 0x20000001)
    (fun t => t.fault == .illegalCommand && t.finfo == 0x20000001) = true := by decide +kernel
/-- F7: EMIT.A on tiles. -/
theorem test_emit_a_tiles : execGives .emitA { running 8 8 [] 0 with uv := true }
    (fun t => t.fault == .sequenceViolation && t.finfo == 0x31000000 && t.uv) = true := by decide +kernel
/-- F6: the fetch at `pc = 256`. -/
theorem test_runs_off : stepGives { running 0 0 [] 0 with pc := 256 }
    (fun t => t.fault == .illegalCommand && t.finfo == 0xFFFFFFFF && t.pc == 256) = true := by decide +kernel

/-! The host's side: START of the reset unit halts at once (R35); STATUS; the free raster of RESET is not looked at. -/

theorem test_start_from_reset :
    stepGives { State.reset with host := [.writeReg 0 1] } (fun t => t.run && stepGives t (fun u => u.done)) = true := by
  decide
theorem test_both_bits_reset : ((running 8 8 [] 0).finish.writeReg 0 3).rv = false := by decide
theorem test_status_word : (running 8 8 [] 0).readReg 1 = 0x5 := by decide
theorem test_reset_step_waits : step State.reset = .fault .notRunning := rfl

/-! Witnesses: for each obligation with hypotheses, concrete values that meet them together, at the ends of the ranges. -/

/-- A unit that does not run, between exports. -/
def idle : State := State.cleared tcfg [] [] 0
/-- A running unit with the largest raster. -/
def full : State := running 256 192 [] 0x10000200
/-- A running unit whose units are one page. -/
def paged : State := { running 1 192 [] 0x31000000 with uv := true, ukind := .pages, units := [⟨2, [0xE3]⟩], gcols := 1, grows := 1 }

theorem witness_EncodeOfDecode : decode 0x21FFFFFF = some (.page 255 65535) := by decide
theorem witness_DecodeFollowsOpcodeTable :
    ("PAGE", 0x21000000, 0xFF000000) ∈ opcodeTable ∧ (0x21FFFFFF : Word) &&& 0xFF000000 = 0x21000000 := by decide
theorem witness_IllegalWordsRaise :
    (0x05000000 : Word).toNat / 2 ^ 24 ∉ [0x00, 0x01, 0x02, 0x03, 0x04, 0x10, 0x20, 0x21, 0x30, 0x31] ∧
    ((0x31000001 : Word).toNat / 2 ^ 24 ∈ [0x00, 0x20, 0x30, 0x31] ∧ (0x31000001 : Word).toNat % 2 ^ 24 ≠ 0) ∧
    ((0x04000010 : Word).toNat / 2 ^ 24 = 0x04 ∧ (0x04000010 : Word).toNat / 2 ^ 4 % 2 ^ 20 ≠ 0) ∧
    (∀ w ∈ [0x10000400, 0x10000004, 0x10000300, 0x10000003, 0x10000002, 0x10000102], (w : Word).toNat / 2 ^ 24 = 0x10 ∧
      (w.toNat / 2 ^ 10 % 2 ^ 14 ≠ 0 ∨ w.toNat / 2 ^ 2 % 2 ^ 6 ≠ 0 ∨ w.toNat / 2 ^ 8 % 4 = 3 ∨ w.toNat % 4 = 3 ∨
        (w.toNat % 4 = 2 ∧ w.toNat / 2 ^ 8 % 4 ≠ 2))) ∧
    ((running 8 8 [] 0x05000000).run = true ∧ decode (running 8 8 [] 0x05000000).fetch = none) := by
  refine ⟨by simp, by simp, by simp, by simp, rfl, by decide⟩
theorem witness_StepRunsFetchedCommand :
    (full.run = true ∧ full.pc.toNat < 256 ∧ decode (full.cmd.read full.pc.toNat) = some .encBNearest) ∧
    (({ full with pc := 255 } : State).pc.toNat < 256 ∧
      decode (({ full with pc := 255 } : State).cmd.read 255) = some .endCmd) ∧
    256 ≤ ({ full with pc := 256 } : State).pc.toNat := by decide
theorem witness_StepWithoutRunIsHostTurn :
    (idle.run = false ∧ idle.host = []) ∧ ({ idle with host := [.writeReg 0 1] } : State).host = .writeReg 0 1 :: [] := by
  decide
theorem witness_ProgramCounterRule :
    execGives .endCmd full (fun t => t.done) ∧ (Instr.hwb 0 ≠ .endCmd ∧ execGives (.hwb 0) full (fun t => t.pc == 1)) ∧
    ((Instr.bank ≠ .endCmd) ∧ execGives .bank full (fun t => t.pc == 0)) ∧
    (({ full with pc := 256 } : State).pc = 256 ∧ stepGives { full with pc := 256 } (fun _ => true)) := by
  decide +kernel
theorem witness_CommandsKeepHostState : exec (.hwb 0) full = .next ({ full with res := 0, pc := 1 } : State) := rfl
theorem witness_NoStepChangesConfiguration : step { idle with host := [.writeReg 4 256] } =
    .next ({ idle with rw := 256 } : State) := rfl
theorem witness_EveryExportEnds : full.run = true ∧ ({ full with pc := 256 } : State).run = true := by decide
theorem witness_EndCommand :
    decode 0 = some .endCmd ∧ (running 0 0 [] 0).run = true ∧ (running 0 0 [] 0).pc = 0 ∧ (running 0 0 [] 0).cmd = [] ∧
      (running 0 0 [] 0).fault = .none ∧ stepGives (running 0 0 [] 0) (fun t => t.done) = true := by decide
/-- FaultsArePrecise, FaultsByCommand. -/
theorem witness_faults : full.fault = .none ∧ full.run = true ∧ full.done = false ∧
    stepGives { full with rv := false } (fun t => t.fault == .inputNotFound) ∧
    stepGives (running 8 8 [] 0x32000000) (fun t => t.fault == .illegalCommand) ∧ execGives .bank full (fun t => t.fault == .sequenceViolation) ∧
    execGives .encTExact { full with rv := false } (fun t => t.fault == .inputNotFound) ∧
    execGives .encSExact { full with rw := 257 } (fun t => t.fault == .dimensionConstraintViolation) ∧
    execGives (.page 0 0) { full with fv := true, rh := 191 } (fun t => t.fault == .dimensionConstraintViolation) := by
  decide +kernel
theorem witness_EncodeFaults : Instr.encBTrunc.isEncode = true ∧ ({ full with rv := false } : State).rv = false ∧
    full.rv = true ∧ ({ full with rw := 0 } : State).rw.toNat < 1 ∧ 256 < ({ full with rw := 257 } : State).rw.toNat ∧
    ({ full with rh := 0 } : State).rh.toNat < 1 ∧ 192 < ({ full with rh := 193 } : State).rh.toNat ∧
    1 ≤ full.rw.toNat ∧ full.rw.toNat ≤ 256 ∧ 1 ≤ full.rh.toNat ∧ full.rh.toNat ≤ 192 := by decide
theorem witness_PartitionFaults : Instr.bank.isPartition = true ∧ full.fv = false ∧
    (({ full with fv := true, rh := 191 } : State).fv = true ∧ ({ full with fv := true, rh := 191 } : State).rh.toNat ≠ 192) := by
  decide
theorem witness_EmitFaults : full.uv = false ∧ ({ full with uv := true } : State).ukind ≠ .pages := by decide
/-- QuantizeNeverEight, QuantizeOfPaletteColour, ExactLookupFirstMatch, ExactLookupAgreesWithQuantize, SpriteByteValues,
BitmapByteValues: TPAL is admitted (test_palette_admitted), has a match for white and none for (255,255,254). -/
theorem witness_palette : tcfg.palAt 8 = tcfg.palAt 0 ∧ tcfg.palAt 0 = black ∧ tcfg.palAt 15 = white ∧
    (∀ i, tcfg.palAt i ≠ ⟨255, 255, 254⟩) ∧ tcfg.palAt 9 = tcfg.palAt 9 ∧ (15 : BitVec 4) ≠ 8 := by decide +kernel
theorem witness_ResRegister : (Instr.endCmd.isScalar = false ∧ execGives .endCmd full (fun t => t.done)) ∧
    execGives (.qnt 255 255 255) full (fun t => t.res == 15) ∧ execGives (.xlt 255 255 255) full (fun t => t.res == 15) ∧
    idle.run = false := by decide +kernel
/-- TileBlockLayout, SpriteBlockLayout: the index function of each mode, and the last positions of a block. -/
theorem witness_block_layouts :
    ((IndexMode.nearest = .nearest ∧ quantize tcfg = quantize full.cfg) ∧
      (IndexMode.exact = .exact ∧ exactLookup tcfg = exactLookup full.cfg)) ∧ 7 < 8 ∧ 3 < 4 ∧ 15 < 16 :=
  ⟨⟨⟨rfl, rfl⟩, rfl, rfl⟩, by decide, by decide, by decide⟩
/-- A block of blue is filled with `PAL[9]`, and the empty memory's block of black with `PAL[8]`. -/
theorem witness_TileRoundTrip :
    (∀ x, x < 8 → ∀ y, y < 8 →
      ((running 8 8 ((List.range 64).map fun p => (4 * p + 2, 0xFF)) 0).pixel (0 + x) (0 + y)).rgb = tcfg.palAt 9) ∧
    ∀ x, x < 8 → ∀ y, y < 8 → ((running 8 8 [] 0).pixel (0 + x) (0 + y)).rgb = tcfg.palAt 8 := by decide +kernel
/-- EncodeTilesResult, EncodeSpritesResult, EncodeBitmapResult, CanonicalBitmapSixBanks: the smallest and the largest
raster. -/
theorem witness_rasters : ∀ s ∈ [running 1 1 [] 0, full], s.rv = true ∧ 1 ≤ s.rw.toNat ∧ s.rw.toNat ≤ 256 ∧
    1 ≤ s.rh.toNat ∧ s.rh.toNat ≤ 192 ∧ (s = full → s.rw.toNat = 256 ∧ s.rh.toNat = 192 ∧ 31 < s.rw.toNat / 8 ∧
      23 < s.rh.toNat / 8 ∧ 15 < s.rw.toNat / 16 ∧ 11 < s.rh.toNat / 16) := by
  intro s hs
  rcases List.mem_cons.1 hs with rfl | hs
  · exact ⟨by decide, by decide, by decide, by decide, by decide, fun h => absurd (congrArg State.rw h) (by decide)⟩
  · rw [List.mem_singleton.1 hs]
    exact ⟨by decide, by decide, by decide, by decide, by decide, fun _ => by decide⟩
theorem witness_TruncBitmapIgnoresConfiguration :
    execGives .encBTrunc (running 1 1 [] 0) (fun t => t.flat == [0]) = true := by decide +kernel
/-- A raster of 17 by 17 pixels and one that differs from it in a pixel no tile or sprite covers; and in an alpha. -/
theorem witness_EncodersReadOnlyTheirPixels :
    (∀ x, x < 16 → ∀ y, y < 16 → (running 17 17 [(64, 7)] 0).pixel x y = (running 17 17 [] 0).pixel x y) ∧
    (∀ x, x < 17 → ∀ y, y < 17 → ((running 17 17 [(3, 7)] 0).pixel x y).rgb = ((running 17 17 [] 0).pixel x y).rgb) ∧
    (running 17 17 [(64, 7)] 0).pixel 16 0 ≠ (running 17 17 [] 0).pixel 16 0 ∧
    execGives .encTNearest (running 17 17 [] 0) (fun t => t.units.length == 4) = true ∧
    execGives .encSNearest (running 17 17 [] 0) (fun t => t.units.length == 1) = true ∧
    execGives .encBNearest (running 17 17 [] 0) (fun t => t.flat.length == 289) = true := by decide +kernel
theorem witness_SplitChunks : 1 ≤ ([0xE3] : List Byte).length ∧ 1 ≤ ([0xE3, 1, 2] : List Byte).length ∧
    (split [0xE3, 1, 2] 2 255)[0]? = some ⟨255, [0xE3, 1]⟩ ∧ (split [0xE3, 1, 2] 2 255)[1]? = some ⟨256, [2]⟩ ∧
    (split [0xE3] 1 65535)[0]? = some ⟨65535, [0xE3]⟩ ∧ 65535 + 0 < 65536 := by decide
/-- BankResult, PageResult. -/
theorem witness_partition : (encoded 0x20000000).fv = true ∧ (encoded 0x20000000).rh.toNat = 192 ∧
    (encoded 0x20000000).flat.length ≤ 49152 := by decide +kernel
theorem witness_IdentifiersAndLabels : label tcfg.name .pages 0x0A = label tcfg.name .pages 10 := rfl
theorem witness_TextLines : (textLines (List.replicate 9 0xE3) 8)[0]? = some (List.replicate 8 0xE3) ∧
    (textLines (List.replicate 9 0xE3) 8).getLast? = some [0xE3] ∧ (List.replicate 9 (0xE3 : Byte)).length % 8 ≠ 0 ∧
    0 + 1 < (textLines (List.replicate 9 0xE3) 8).length ∧ textLines [] 16 = [] := by decide
/-- EmitCommands, HeaderTextOfZeroUnits; for TextIsPrintable and TextLineCounts test_name_admitted. -/
theorem witness_emit : ({ full with uv := true } : State).uv = true ∧ ({ full with uv := true } : State).units = [] ∧
    ({ full with uv := true } : State).ukind = .tiles ∧ ({ full with ukind := .sprites } : State).ukind = .sprites ∧
    paged.uv = true ∧ paged.ukind = .pages := by decide
theorem witness_ArtefactWriters : paged.fault = .none ∧ Instr.emitA.isEmit = true ∧ Instr.emitA.isEncode = false ∧
    Instr.emitA.isPartition = false ∧ execGives .emitA paged (fun t => t.fault == .none) = true ∧
    Instr.bank.isPartition = true ∧ execGives .bank (encoded 0) (fun t => t.fault == .none) = true := by decide +kernel
/-- StartAction, ControlRegister. -/
theorem witness_control : idle.run = false ∧ full.run = true ∧ (1 : Word).getLsbD 0 = true ∧ (1 : Word).getLsbD 1 = false ∧
    (2 : Word).getLsbD 1 = true ∧ (3 : Word).getLsbD 1 = true ∧ (4 : Word).getLsbD 1 = false ∧ (4 : Word).getLsbD 0 = false := by
  decide
/-- Two units alike in what the host set, and not equal. -/
theorem witness_StartForgetsEarlierExports :
    idle.cfg = ({ idle with res := 7, flat := [1], fv := true, done := true } : State).cfg ∧
    idle ≠ { idle with res := 7, flat := [1], fv := true, done := true } := by
  exact ⟨rfl, fun h => absurd (congrArg State.res h) (by decide)⟩
theorem witness_RegisterMap : idle.run = false ∧ ((13 : Byte) ≠ 0 ∧ (13 : Byte) ≠ 4 ∧ (13 : Byte) ≠ 5 ∧ (13 : Byte) ≠ 12) ∧
    13 ≤ (13 : Byte).toNat ∧ 13 ≤ (255 : Byte).toNat ∧ idle.flat.length ≤ 49152 ∧ idle.units.length ≤ 49152 := by decide
theorem witness_HostWindows : ({ paged with run := false, flat := [9], txt := [10] } : State).run = false ∧
    ({ paged with flat := [9] } : State).flat[0]? = some 9 ∧ ({ paged with flat := [9] } : State).flat.length ≤ 1 ∧
    paged.units[0]? = some ⟨2, [0xE3]⟩ ∧ paged.units.length ≤ 1 ∧ ({ paged with txt := [10] } : State).txt[0]? = some 10 ∧
    ({ paged with txt := [10] } : State).txt.length ≤ 1 := by decide
theorem witness_HostMemoryWrites : idle.MemoryOk ∧ idle.run = false ∧ 196607 < 196608 ∧ 255 < 256 := by
  exact ⟨⟨by decide, by decide⟩, by decide, by decide, by decide⟩
/-- The last pixel of the largest raster. -/
theorem witness_RasterLayout :
    let s : State := { idle with rw := 256, rh := 192 }
    s.MemoryOk ∧ s.run = false ∧ 255 < s.rw.toNat ∧ 191 < s.rh.toNat ∧ s.rw.toNat ≤ 256 ∧ s.rh.toNat ≤ 192 ∧
    49151 = 191 * s.rw.toNat + 255 ∧
    hostMove (.writeRas (4 * 49151) 1) s = .next { s with ras := [(196604, 1)] } ∧
    hostMove (.writeRas (4 * 49151 + 1) 2) { s with ras := [(196604, 1)] } =
      .next { s with ras := [(196604, 1), (196605, 2)] } ∧
    hostMove (.writeRas (4 * 49151 + 2) 3) { s with ras := [(196604, 1), (196605, 2)] } =
      .next { s with ras := [(196604, 1), (196605, 2), (196606, 3)] } ∧
    hostMove (.writeRas (4 * 49151 + 3) 0) { s with ras := [(196604, 1), (196605, 2), (196606, 3)] } =
      .next { s with ras := [(196604, 1), (196605, 2), (196606, 3)] } := by
  exact ⟨⟨by decide, by decide⟩, by decide, by decide, by decide, by decide, by decide, by decide, rfl, rfl, rfl, rfl⟩
/-- A running unit with one page, and its step. -/
theorem witness_StepKeepsInvariant :
    ({ paged with fv := true, flat := List.replicate 192 0xE3, units := [⟨2, List.replicate 192 0xE3⟩] } : State).Inv ∧
    stepGives { paged with fv := true, flat := List.replicate 192 0xE3, units := [⟨2, List.replicate 192 0xE3⟩] }
      (fun t => t.tv && t.pc == 1) = true := by
  refine ⟨⟨⟨test_palette_admitted, test_name_admitted⟩, ⟨by decide, by decide⟩,
    ⟨by decide, by decide, by decide, by decide⟩, ?_, ?_, ?_⟩, by decide +kernel⟩
  · exact ⟨fun h => absurd h (by decide), fun _ => by decide +kernel, fun _ _ => by decide +kernel⟩
  · refine ⟨by decide, by decide, ?_, ⟨2, by decide, by decide, ?_⟩, fun _ _ => ⟨by decide, by decide, by decide +kernel⟩,
      by decide, by decide⟩
    · intro u hu
      rw [List.mem_singleton.1 hu]
      exact ⟨by decide +kernel, by decide +kernel⟩
    · intro k u h
      cases k with
      | zero => cases h; rfl
      | succ k => cases h
  · exact ⟨fun _ => rfl, fun h => absurd h (by decide)⟩

end Sys2Proof.Machine.Tests
end

section
/-! PROOFS. The family of 10_state.md: what the commands keep, the invariant, and that every step keeps it. -/

namespace Sys2Proof

/-- Format C: the channels the decoder takes from a colour payload are those put in (30_encoding.md R90). -/
theorem decodeColour_wordOf (c : Byte → Byte → Byte → Instr) (op r g b : Byte) :
    decodeColour c (wordOf op (colourPayload r g b)) = some (c r g b) := by
  obtain ⟨hr, hg, hb⟩ := fields_colourPayload r g b
  simp [decodeColour, extractLsb'_wordOf, hr, hg, hb]

/-- Format I: the index the decoder takes is the one put in (30_encoding.md R90). -/
theorem decodeIndex_wordOf (op : Byte) (idx : BitVec 4) :
    decodeIndex (wordOf op (0#20 ++ idx)) = some (.hwb idx) := by
  obtain ⟨hzero, hidx⟩ := fields_indexPayload idx
  simp only [decodeIndex, extractLsb'_wordOf _ _ (show 4 + 20 ≤ 24 by decide),
    extractLsb'_wordOf _ _ (show 0 + 4 ≤ 24 by decide), hzero, hidx, if_true]

/-- The word of a command decodes to that command (30_encoding.md R93, R95). -/
theorem decode_encode (i : Instr) : decode (encode i) = some i := by
  cases i with
  | qnt r g b => simpa [decode, encode] using decodeColour_wordOf .qnt 1 r g b
  | xlt r g b => simpa [decode, encode] using decodeColour_wordOf .xlt 2 r g b
  | t332 r g b => simpa [decode, encode] using decodeColour_wordOf .t332 3 r g b
  | hwb idx => simpa [decode, encode] using decodeIndex_wordOf 4 idx
  | page base size =>
    obtain ⟨hbase, hsize⟩ := fields_pagePayload base size
    simp [decode, encode, extractLsb'_wordOf, hbase, hsize]
  | endCmd | encTNearest | encTExact | encSNearest | encSExact | encBNearest | encBExact | encBTrunc | bank | emitH
  | emitA => rfl

end Sys2Proof

namespace Sys2Proof.Machine

open Sys2Proof

/-! How `pc` moves. -/

/-- The fetch at 256 or above gives no command (10_state.md R35). -/
theorem decode_fetch_of_ge {s : State} (h : 256 ≤ s.pc.toNat) : decode s.fetch = none := by
  rw [fetch_of_ge h]
  rfl

/-- A fetched word that is a command stands at an index below 256. -/
theorem pc_lt_of_decode_fetch {s : State} {i : Instr} (h : decode s.fetch = some i) : s.pc.toNat < 256 := by
  by_contra hge
  simp [decode_fetch_of_ge (Nat.le_of_not_lt hge)] at h

/-- Below 256 `pc + 1` does not wrap. -/
theorem toNat_succ_pc {s : State} (h : s.pc.toNat < 256) : (s.pc + 1).toNat = s.pc.toNat + 1 := by
  rw [BitVec.toNat_add_of_lt (by simp; omega)]
  rfl

/-- A command leaves what the host set (10_state.md R46). -/
theorem exec_keeps_host_state {i : Instr} {s t : State} (h : exec i s = .next t) :
    t.ras = s.ras ∧ t.rw = s.rw ∧ t.rh = s.rh ∧ t.rv = s.rv ∧ t.cmd = s.cmd ∧ t.cfg = s.cfg := by
  cases exec_effect h <;> simp

/-- `EMIT.H` passes its check exactly with units present. -/
theorem emitHCheck_none_iff (s : State) : s.emitHCheck = .none ↔ s.uv = true := by
  rcases emitHCheck_cases s with h | h <;> simp [h]

/-- `EMIT.A` passes its check exactly with pages present. -/
theorem emitACheck_none_iff (s : State) : s.emitACheck = .none ↔ s.uv = true ∧ s.ukind = .pages := by
  rcases emitACheck_cases s with ⟨hfault, hno⟩ | ⟨hnone, huv, hkind⟩
  · simp only [hfault, reduceCtorEq, false_iff, not_and_or, Bool.not_eq_true]
    exact hno
  · simp [hnone, huv, hkind]

/-! The units of a grid and of a partition. -/

theorem mem_gridUnits_bytes {side cols rows : Nat} {block : Nat → Nat → List Byte} {u : EncUnit}
    (h : u ∈ gridUnits side cols rows block) : ∃ x y, u.bytes = block x y := by
  obtain ⟨x, y, -, -, rfl⟩ := mem_rowMajor.1 h
  exact ⟨_, _, rfl⟩

/-- The units of a grid are numbered in order from 0 (41_tile.md R153). -/
theorem gridUnits_num {side cols rows k : Nat} {block : Nat → Nat → List Byte} {u : EncUnit}
    (hcount : rows * cols ≤ 65536) (h : (gridUnits side cols rows block)[k]? = some u) : u.num.toNat = k := by
  have hk : k < rows * cols := by simpa using (List.getElem?_eq_some_iff.1 h).1
  have hcols : 0 < cols := Nat.pos_of_mul_pos_left (Nat.zero_lt_of_lt hk)
  have hrow : k / cols < rows := Nat.div_lt_of_lt_mul (by rwa [Nat.mul_comm])
  have hsplit : k / cols * cols + k % cols = k := Nat.div_add_mod' k cols
  have hunit := gridUnits_getElem? (side := side) block (Nat.mod_lt k hcols) hrow
  rw [hsplit, h] at hunit
  rw [Option.some.inj hunit, BitVec.toNat_ofNat, Nat.mod_eq_of_lt (by omega)]

theorem ceilDiv_le_self (l : Nat) {n : Nat} (hn : 0 < n) : ceilDiv l n ≤ l := by
  by_contra h
  have hlt : l * n < l := (lt_ceilDiv_iff hn).1 (by omega)
  exact absurd (Nat.le_mul_of_pos_right l hn) (by omega)

/-- The chunks of a partition are numbered in order from `base` (44_partition.md R211). -/
theorem split_num {f : List Byte} {ps base k : Nat} {u : EncUnit} (hps : 0 < ps) (hcount : base + f.length ≤ 65536)
    (h : (split f ps base)[k]? = some u) : u.num.toNat = base + k := by
  have hk : k < ceilDiv f.length ps := by simpa using (List.getElem?_eq_some_iff.1 h).1
  have hle := ceilDiv_le_self f.length hps
  rw [split_getElem? base hk] at h
  rw [← Option.some.inj h, BitVec.toNat_ofNat, Nat.mod_eq_of_lt (by omega)]

/-- No chunk is empty, and none is longer than the chunk size (44_partition.md R212). -/
theorem mem_split_length {f : List Byte} {ps base : Nat} {u : EncUnit} (hps : 0 < ps) (h : u ∈ split f ps base) :
    1 ≤ u.bytes.length ∧ u.bytes.length ≤ ps := by
  obtain ⟨k, hk, rfl⟩ := List.mem_map.1 h
  have hk : k < ceilDiv f.length ps := List.mem_range.1 hk
  have hlt := (lt_ceilDiv_iff hps).1 hk
  simp only [chunk_length hk hps]
  omega

theorem pageSize_pos (size : BitVec 16) : 0 < pageSize size := by
  unfold pageSize
  split
  · decide
  · next h => exact Nat.pos_of_ne_zero fun h0 => h (BitVec.eq_of_toNat_eq h0)

theorem pageSize_lt (size : BitVec 16) : pageSize size < 65536 := by
  unfold pageSize
  split
  · decide
  · exact size.isLt

@[simp] theorem tileBlock_length (m : IndexMode) (s : State) (x y : Nat) : (tileBlock m s x y).length = 32 := by
  simp [tileBlock]

@[simp] theorem spriteBlock_length (m : IndexMode) (s : State) (x y : Nat) : (spriteBlock m s x y).length = 256 := by
  simp [spriteBlock]

@[simp] theorem bitmapBytes_length (m : ColourMode) (s : State) :
    (bitmapBytes m s).length = s.rw.toNat * s.rh.toNat := by
  simp [bitmapBytes, Nat.mul_comm]

/-! Each part of the invariant, by what it rests on. -/

/-- `t` has the configuration and the artefacts of `s`. -/
structure SameArtefacts (s t : State) : Prop where
  cfg : t.cfg = s.cfg
  flat : t.flat = s.flat
  fv : t.fv = s.fv
  units : t.units = s.units
  uv : t.uv = s.uv
  ukind : t.ukind = s.ukind
  gcols : t.gcols = s.gcols
  grows : t.grows = s.grows
  txt : t.txt = s.txt
  tv : t.tv = s.tv

theorem sameArtefacts_finish (s : State) : SameArtefacts s s.finish :=
  ⟨rfl, rfl, rfl, rfl, rfl, rfl, rfl, rfl, rfl, rfl⟩

theorem sameArtefacts_raise (c : FaultCode) (w : Word) (s : State) : SameArtefacts s (s.raise c w) :=
  ⟨rfl, rfl, rfl, rfl, rfl, rfl, rfl, rfl, rfl, rfl⟩

/-- Outside a run the registers RW, RH and RV are free. -/
theorem State.FlatOk.of_idle {s t : State} (h : s.FlatOk) (e : SameArtefacts s t) (hr : t.run = false) : t.FlatOk := by
  obtain ⟨hempty, hbounds, -⟩ := h
  simp only [State.FlatOk, e.fv, e.flat, hr]
  exact ⟨hempty, hbounds, nofun⟩

theorem State.UnitsOk.of_idle {s t : State} (h : s.UnitsOk) (e : SameArtefacts s t) (hr : t.run = false) :
    t.UnitsOk := by
  obtain ⟨hempty, hcount, hlen, hnum, hflat, -, -⟩ := h
  simp only [State.UnitsOk, e.uv, e.units, e.ukind, e.gcols, e.grows, e.fv, e.flat, hr]
  exact ⟨hempty, hcount, hlen, hnum, hflat, nofun, nofun⟩

theorem State.TextOk.of_same {s t : State} (h : s.TextOk) (e : SameArtefacts s t) : t.TextOk := by
  simpa only [State.TextOk, e.tv, e.txt, e.uv, e.ukind, e.units, e.cfg] using h

theorem State.FlatOk.of_empty {s : State} (hflat : s.flat = []) (hfv : s.fv = false) : s.FlatOk := by
  simp [State.FlatOk, hflat, hfv]

theorem State.UnitsOk.of_empty {s : State} (hunits : s.units = []) (huv : s.uv = false) (hkind : s.ukind = .tiles)
    (hcols : s.gcols = 0) (hrows : s.grows = 0) : s.UnitsOk := by
  refine ⟨fun _ => ⟨hunits, hkind, hcols, hrows⟩, ?_, ?_, ⟨0, by simp, by simp, ?_⟩, ?_, ?_, ?_⟩ <;> simp [*]

theorem State.TextOk.of_empty {s : State} (htxt : s.txt = []) (htv : s.tv = false) : s.TextOk := by
  simp [State.TextOk, htxt, htv]

/-- The unit runs only without DONE and without a fault (10_state.md R43). -/
theorem State.ControlOk.of_run {s : State} (h : s.ControlOk) (hr : s.run = true) :
    s.done = false ∧ s.fault = .none ∧ s.finfo = 0 := by
  obtain ⟨-, hcond, hinfo, -⟩ := h
  have hrunning : s.done = false ∧ s.fault = .none := by
    unfold State.condition at hcond
    split at hcond <;> simp_all
  exact ⟨hrunning.1, hrunning.2, hinfo hrunning.2⟩

theorem State.ControlOk.advance {s : State} (h : s.ControlOk) (hpc : s.pc.toNat < 256) : s.advance.ControlOk := by
  obtain ⟨-, hrest⟩ := h
  exact ⟨by rw [State.advance_pc, toNat_succ_pc hpc]; omega, hrest⟩

/-- A running unit that ends well is FINISHED. -/
theorem State.ControlOk.finish {s : State} (h : s.ControlOk) (hr : s.run = true) : s.finish.ControlOk := by
  obtain ⟨-, hfault, hinfo⟩ := h.of_run hr
  exact ⟨h.1, by simp [State.condition, hfault], fun _ => hinfo, fun hf => absurd hfault hf⟩

/-- A running unit that faults is FAULTED (10_state.md R43, R28). -/
theorem State.ControlOk.raise {s : State} {c : FaultCode} {w : Word} (h : s.ControlOk) (hr : s.run = true)
    (hc : c ≠ .none) (hby : raisedBy c (decode w) = true) : (s.raise c w).ControlOk := by
  obtain ⟨hdone, -, -⟩ := h.of_run hr
  refine ⟨h.1, ?_, fun hf => absurd hf hc, fun _ => hby⟩
  cases c <;> simp_all [State.condition]

/-- A grid encoder with a valid raster leaves units as R37 asks. -/
theorem State.UnitsOk.grid {s : State} {kind : UnitKind} {side : Nat} {block : Nat → Nat → List Byte}
    (hkind : kind = .tiles ∧ side = 8 ∨ kind = .sprites ∧ side = 16) (hdims : s.dimsOk = true)
    (hblock : ∀ x y, unitLengthOk kind (block x y).length) :
    (s.dropFlat.putUnits kind (s.rw.toNat / side) (s.rh.toNat / side)
      (gridUnits side (s.rw.toNat / side) (s.rh.toNat / side) block)).UnitsOk := by
  obtain ⟨-, hrw, -, hrh⟩ := (dimsOk_iff s).1 hdims
  have hcols : s.rw.toNat / side ≤ 256 := (Nat.div_le_self _ _).trans hrw
  have hrows : s.rh.toNat / side ≤ 192 := (Nat.div_le_self _ _).trans hrh
  have hcount := Nat.mul_le_mul hrows hcols
  have hgc : (BitVec.ofNat 16 (s.rw.toNat / side)).toNat = s.rw.toNat / side := by
    rw [BitVec.toNat_ofNat, Nat.mod_eq_of_lt (by omega)]
  have hgr : (BitVec.ofNat 16 (s.rh.toNat / side)).toNat = s.rh.toNat / side := by
    rw [BitVec.toNat_ofNat, Nat.mod_eq_of_lt (by omega)]
  refine ⟨nofun, ?_, fun u hu => ?_, ⟨0, by omega, fun _ => rfl, fun k u hu => ?_⟩, fun _ hk => ?_,
    fun _ _ hk => ?_, fun _ _ hk => ?_⟩
  · simp only [State.putUnits_units, State.putUnits_gcols, State.putUnits_grows, gridUnits_length, hgc, hgr]
    exact Nat.mul_comm _ _
  · obtain ⟨x, y, hbytes⟩ := mem_gridUnits_bytes hu
    rw [hbytes]
    exact hblock x y
  · rw [Nat.zero_add]
    exact gridUnits_num (by omega) hu
  · rcases hkind with ⟨rfl, -⟩ | ⟨rfl, -⟩ <;> simp at hk
  · rcases hkind with ⟨-, rfl⟩ | ⟨rfl, -⟩
    · exact ⟨hgc, hgr⟩
    · simp at hk
  · rcases hkind with ⟨rfl, -⟩ | ⟨-, rfl⟩
    · simp at hk
    · exact ⟨hgc, hgr⟩

/-- A partition of a bitmap leaves units as R37 and R212 ask. -/
theorem State.UnitsOk.partition {s : State} {kind : UnitKind} {ps base : Nat}
    (hkind : kind = .banks ∧ ps ≤ 8192 ∧ base = 0 ∨ kind = .pages ∧ ps ≤ 65535 ∧ base ≤ 255) (hps : 0 < ps)
    (hflat : s.FlatOk) (hfv : s.fv = true) :
    (s.putUnits kind 1 (split s.flat ps base).length (split s.flat ps base)).UnitsOk := by
  obtain ⟨-, hbounds, -⟩ := hflat
  obtain ⟨-, hmax⟩ := hbounds hfv
  have hcount := ceilDiv_le_self s.flat.length hps
  refine ⟨nofun, ?_, fun u hu => ?_, ⟨base, by omega, fun hk => ?_, fun k u hu => ?_⟩, fun _ _ => ?_,
    fun _ _ hk => ?_, fun _ _ hk => ?_⟩
  · simp only [State.putUnits_units, State.putUnits_gcols, State.putUnits_grows, split_length, BitVec.toNat_ofNat]
    rw [Nat.mod_eq_of_lt (by omega), Nat.mod_eq_of_lt (by omega), Nat.one_mul]
  · obtain ⟨hlo, hhi⟩ := mem_split_length hps hu
    rcases hkind with ⟨rfl, hsize, -⟩ | ⟨rfl, hsize, -⟩ <;> exact ⟨hlo, hhi.trans hsize⟩
  · rcases hkind with ⟨-, -, hbase⟩ | ⟨rfl, -⟩
    · exact hbase
    · exact absurd rfl hk
  · exact split_num hps (by omega) hu
  · exact ⟨hfv, rfl, split_flatMap_bytes s.flat base hps⟩
  · rcases hkind with ⟨rfl, -⟩ | ⟨rfl, -⟩ <;> simp at hk
  · rcases hkind with ⟨rfl, -⟩ | ⟨rfl, -⟩ <;> simp at hk

/-- The bitmap encoder with a valid raster leaves FLAT as R36 asks. -/
theorem State.FlatOk.bitmap {s : State} {m : ColourMode} (hrv : s.rv = true) (hdims : s.dimsOk = true) :
    (s.putFlat (bitmapBytes m s)).FlatOk := by
  obtain ⟨hw, hw', hh, hh'⟩ := (dimsOk_iff s).1 hdims
  have hlo := Nat.mul_le_mul hw hh
  have hhi := Nat.mul_le_mul hw' hh'
  have hlen := bitmapBytes_length m s
  refine ⟨nofun, fun _ => ?_, fun _ _ => ⟨hrv, hdims, hlen⟩⟩
  simp only [State.putFlat_flat, hlen]
  omega

/-! The invariant, kept by every step. -/

/-- An emit command leaves a text of the present units (10_state.md R38). -/
theorem State.Inv.putTxt {s : State} {text : List Byte} (h : s.Inv) (hpc : s.pc.toNat < 256) (huv : s.uv = true)
    (htext : (∃ w h, text = headerText s.cfg.name s.ukind w h s.units) ∨
      (s.ukind = .pages ∧ text = asmText s.cfg.name s.units)) : (s.putTxt text).advance.Inv :=
  ⟨h.config, h.memory, h.control.advance hpc, h.flat, h.units, nofun, fun _ => ⟨huv, htext⟩⟩

/-- Outside a run RW, RH, RV, the memories and the host's moves may change: the other fields carry the invariant. -/
theorem State.Inv.of_idle {s t : State} (h : s.Inv) (e : SameArtefacts s t) (hr : t.run = false) (hctl : t.ControlOk)
    (hmem : t.MemoryOk) : t.Inv :=
  ⟨h.config.of_cfg_eq e.cfg, hmem, hctl, h.flat.of_idle e hr, h.units.of_idle e hr, h.text.of_same e⟩

/-- A command of a running unit keeps the invariant. -/
theorem CommandEffect.keeps_inv {i : Instr} {s t : State} (e : CommandEffect i s t) (hinv : s.Inv)
    (hr : s.run = true) (hpc : s.pc.toNat < 256) : t.Inv := by
  have ⟨hcfg, hmem, hctl, hflat, hunits, htext⟩ := hinv
  have hadv := hctl.advance hpc
  cases e with
  | ends _ =>
    exact hinv.of_idle (sameArtefacts_finish s) rfl (hctl.finish hr) hmem
  | scalar v _ => exact ⟨hcfg, hmem, hadv, hflat, hunits, htext⟩
  | raises c hc hby =>
    exact hinv.of_idle (sameArtefacts_raise c _ s) rfl (hctl.raise hr hc (by rwa [decode_encode])) hmem
  | tiles m _ hck =>
    obtain ⟨-, hdims⟩ := (encodeCheck_none_iff s).1 hck
    exact ⟨hcfg, hmem, hadv, .of_empty rfl rfl, .grid (.inl ⟨rfl, rfl⟩) hdims (tileBlock_length m s),
      .of_empty rfl rfl⟩
  | sprites m _ hck =>
    obtain ⟨-, hdims⟩ := (encodeCheck_none_iff s).1 hck
    exact ⟨hcfg, hmem, hadv, .of_empty rfl rfl, .grid (.inr ⟨rfl, rfl⟩) hdims (spriteBlock_length m s),
      .of_empty rfl rfl⟩
  | bitmap m _ hck =>
    obtain ⟨hrv, hdims⟩ := (encodeCheck_none_iff s).1 hck
    exact ⟨hcfg, hmem, hadv, .bitmap hrv hdims, .of_empty rfl rfl rfl rfl rfl, .of_empty rfl rfl⟩
  | banks _ hck =>
    obtain ⟨hfv, -⟩ := (partitionCheck_none_iff s).1 hck
    exact ⟨hcfg, hmem, hadv, hflat, .partition (.inl ⟨rfl, le_refl _, rfl⟩) (by decide) hflat hfv, .of_empty rfl rfl⟩
  | pages base size _ hck =>
    obtain ⟨hfv, -⟩ := (partitionCheck_none_iff s).1 hck
    have hsize := pageSize_lt size
    have hbase := base.isLt
    exact ⟨hcfg, hmem, hadv, hflat, .partition (.inr ⟨rfl, by omega, by omega⟩) (pageSize_pos size) hflat hfv,
      .of_empty rfl rfl⟩
  | header _ hck =>
    exact hinv.putTxt hpc ((emitHCheck_none_iff s).1 hck) (.inl ⟨_, _, rfl⟩)
  | assembler _ hck =>
    obtain ⟨huv, hkind⟩ := (emitACheck_none_iff s).1 hck
    exact hinv.putTxt hpc huv (.inr ⟨hkind, rfl⟩)

/-- A unit with the values of R44 meets the invariant, with an admitted configuration and a raster in canonical form. -/
theorem State.inv_cleared {cfg : Config} {ras : Memory 8} (hpal : cfg.PalAdmitted) (hname : cfg.NameAdmitted)
    (hras : Memory.wf rasCapacity ras = true) (host : List HostMove) (resets : Nat) :
    (State.cleared cfg ras host resets).Inv :=
  ⟨⟨hpal, hname⟩, ⟨hras, rfl⟩, ⟨Nat.zero_le _, rfl, fun _ => rfl, fun h => absurd rfl h⟩, .of_empty rfl rfl,
    .of_empty rfl rfl rfl rfl rfl, .of_empty rfl rfl⟩

/-- START meets the invariant from any admitted configuration and canonical memories. -/
theorem State.inv_start {s : State} (hcfg : s.ConfigOk) (hmem : s.MemoryOk) : s.start.Inv :=
  ⟨hcfg, hmem, ⟨Nat.zero_le _, rfl, fun _ => rfl, fun h => absurd rfl h⟩, .of_empty rfl rfl,
    .of_empty rfl rfl rfl rfl rfl, .of_empty rfl rfl⟩

/-- A move of the host keeps the invariant. -/
theorem HostEffect.keeps_inv {s t : State} (e : HostEffect s t) (h : s.Inv) : t.Inv := by
  obtain ⟨hras, hcmd⟩ := h.memory
  cases e with
  | ignored => exact h
  | start _ => exact State.inv_start h.config h.memory
  | reset _ => exact State.inv_cleared h.config.1 h.config.2 (Memory.wf_canon _ _) _ _
  | width v hr | height v hr | valid v hr =>
    exact h.of_idle ⟨rfl, rfl, rfl, rfl, rfl, rfl, rfl, rfl, rfl, rfl⟩ hr h.control h.memory
  | rasterByte a v hr ha =>
    exact h.of_idle ⟨rfl, rfl, rfl, rfl, rfl, rfl, rfl, rfl, rfl, rfl⟩ hr h.control ⟨Memory.wf_write v ha hras, hcmd⟩
  | commandWord i w hr hi =>
    exact h.of_idle ⟨rfl, rfl, rfl, rfl, rfl, rfl, rfl, rfl, rfl, rfl⟩ hr h.control ⟨hras, Memory.wf_write w hi hcmd⟩

theorem State.Inv.host_popped {s : State} (h : s.Inv) (rest : List HostMove) : ({ s with host := rest } : State).Inv :=
  ⟨h.config, h.memory, h.control, h.flat, h.units, h.text⟩

/-- Settles O60: by the three things a step can do, a command, an illegal word or a move of the host. -/
theorem stepKeepsInvariant : Obligations.StepKeepsInvariant := by
  intro s t hinv hstep
  rcases step_cases hstep with ⟨hr, i, hi, hexec⟩ | ⟨hr, hillegal, rfl⟩ | ⟨-, m, rest, -, he⟩
  · exact (exec_effect hexec).keeps_inv hinv hr (pc_lt_of_decode_fetch hi)
  · exact hinv.of_idle (sameArtefacts_raise _ _ s) rfl
      (hinv.control.raise hr (by decide) (by rw [hillegal]; rfl)) hinv.memory
  · exact he.keeps_inv (hinv.host_popped rest)

end Sys2Proof.Machine
end

section
/-! PROOFS. The bytes of both texts (10_state.md R38, 45_declaration.md). -/

namespace Sys2Proof.Machine

open Sys2Proof

/-! The bytes of the texts. -/

/-- A line end or a printable character (10_state.md R38). -/
def Printable (v : Byte) : Prop := v = 0x0A ∨ (0x20 ≤ v.toNat ∧ v.toNat ≤ 0x7E)

/-- Every byte is a line end or a printable character. -/
def AllPrintable (l : List Byte) : Prop := ∀ v ∈ l, Printable v

@[simp] theorem allPrintable_nil : AllPrintable [] := by simp [AllPrintable]

@[simp] theorem allPrintable_append {a b : List Byte} : AllPrintable (a ++ b) ↔ AllPrintable a ∧ AllPrintable b :=
  List.forall_mem_append

theorem AllPrintable.flatMap {α : Type} {f : α → List Byte} (h : ∀ x, AllPrintable (f x)) (l : List α) :
    AllPrintable (l.flatMap f) := by
  intro v hv
  obtain ⟨x, -, hx⟩ := List.mem_flatMap.1 hv
  exact h x v hx

/-- A string literal of printable characters. -/
theorem allPrintable_ascii {t : String}
    (h : (t.toList.all fun c => decide (32 ≤ c.toNat) && decide (c.toNat ≤ 126)) = true) : AllPrintable (ascii t) := by
  intro v hv
  obtain ⟨c, hc, rfl⟩ := List.mem_map.1 hv
  have hrange := List.all_eq_true.1 h c hc
  simp only [Bool.and_eq_true, decide_eq_true_eq] at hrange
  obtain ⟨hlo, hhi⟩ := hrange
  right
  rw [BitVec.toNat_ofNat, Nat.mod_eq_of_lt (by omega)]
  exact ⟨hlo, hhi⟩

@[simp] theorem allPrintable_eol : AllPrintable eol := fun _ hv => .inl (List.mem_singleton.1 hv)

@[simp] theorem allPrintable_dec (n : Nat) : AllPrintable (dec n) := by
  intro v hv
  have := decDigits_digits (n + 1) n v hv
  exact .inr (by omega)

@[simp] theorem allPrintable_kindWord (k : UnitKind) : AllPrintable (kindWord k) := by
  cases k <;> exact allPrintable_ascii (by decide)

@[simp] theorem allPrintable_openArray : AllPrintable openArray := by
  have hbrace : AllPrintable [0x7B] := by simp [AllPrintable, Printable]
  simp only [openArray, allPrintable_append]
  exact ⟨⟨allPrintable_ascii (by decide), hbrace⟩, allPrintable_eol⟩

@[simp] theorem allPrintable_closeArray : AllPrintable closeArray := by
  have hbrace : AllPrintable [0x7D] := by simp [AllPrintable, Printable]
  simp only [closeArray, allPrintable_append]
  exact ⟨⟨⟨hbrace, allPrintable_ascii (by decide)⟩, allPrintable_eol⟩, allPrintable_eol⟩

/-- `Upper` of a printable character is printable (45_declaration.md R232). -/
theorem printable_upperByte {v : Byte} (h : Printable v) : Printable (upperByte v) := by
  unfold upperByte
  split
  · next hlower =>
    simp only [isLower, Bool.and_eq_true, decide_eq_true_eq] at hlower
    right
    bv_omega
  · exact h

theorem AllPrintable.upper {l : List Byte} (h : AllPrintable l) : AllPrintable (upper l) := by
  intro v hv
  obtain ⟨u, hu, rfl⟩ := List.mem_map.1 hv
  exact printable_upperByte (h u hu)

theorem printable_of_isNameByte {v : Byte} (h : isNameByte v = true) : Printable v := by
  simp only [isNameByte, isLower, Bool.or_eq_true, Bool.and_eq_true, decide_eq_true_eq] at h
  rcases h with (h | h) | rfl
  · exact .inr (by omega)
  · exact .inr (by omega)
  · exact .inr (by decide)

/-- The characters of a name are printable (00_scope.md R12). -/
theorem allPrintable_name {cfg : Config} (h : cfg.NameAdmitted) : AllPrintable cfg.name := by
  obtain ⟨-, -, hall⟩ := h
  exact fun v hv => printable_of_isNameByte (List.all_eq_true.1 hall v hv)

theorem allPrintable_literals {pre : List Byte} (hpre : AllPrintable pre) (c : List Byte) :
    AllPrintable (literals pre c) :=
  forall_mem_literals (allPrintable_ascii (by decide)) hpre (fun _ hlo hhi => .inr (by omega)) c

theorem allPrintable_commaLines {l : List (List Byte)} (h : ∀ x ∈ l, AllPrintable x) : AllPrintable (commaLines l) :=
  forall_mem_commaLines (show AllPrintable _ by simp (disch := decide) [allPrintable_ascii]) h

section
variable {name : List Byte} (hname : AllPrintable name)
include hname

theorem allPrintable_label (kind : UnitKind) (num : BitVec 16) : AllPrintable (label name kind num) := by
  simp (disch := decide) [label, allPrintable_ascii, hname]

theorem allPrintable_sizeMacro {m : List Byte} (hm : AllPrintable m) (n : Nat) : AllPrintable (sizeMacro name m n) := by
  simp (disch := decide) [sizeMacro, allPrintable_ascii, hname, hm]

theorem allPrintable_guardOpen : AllPrintable (guardOpen name) := by
  simp (disch := decide) [guardOpen, allPrintable_ascii, hname.upper]

theorem allPrintable_sizeMacros (rw rh : Nat) (units : List EncUnit) :
    AllPrintable (sizeMacros name rw rh units) := by
  simp only [sizeMacros, allPrintable_append]
  exact ⟨⟨allPrintable_sizeMacro hname.upper (allPrintable_ascii (by decide)) _,
    allPrintable_sizeMacro hname.upper (allPrintable_ascii (by decide)) _⟩,
    allPrintable_sizeMacro hname.upper (allPrintable_ascii (by decide)) _⟩

theorem allPrintable_unitMacros (kind : UnitKind) (units : List EncUnit) :
    AllPrintable (unitMacros name kind units) := by
  have heach := AllPrintable.flatMap (fun u : EncUnit => allPrintable_sizeMacro
    (allPrintable_label hname kind u.num).upper (allPrintable_ascii (t := "_SIZE ") (by decide)) u.bytes.length) units
  cases kind with
  | tiles | sprites => exact allPrintable_nil
  | banks | pages => exact heach

theorem allPrintable_unitArray (kind : UnitKind) (u : EncUnit) : AllPrintable (unitArray name kind u) := by
  have hlines : AllPrintable (commaLines ((textLines u.bytes (lpl kind)).map (literals (ascii "0x")))) := by
    refine allPrintable_commaLines fun x hx => ?_
    obtain ⟨c, -, rfl⟩ := List.mem_map.1 hx
    exact allPrintable_literals (allPrintable_ascii (by decide)) c
  simp (disch := decide) [unitArray, allPrintable_ascii, allPrintable_label hname, hlines]

theorem allPrintable_lookupTable (kind : UnitKind) (units : List EncUnit) :
    AllPrintable (lookupTable name kind units) := by
  have hentries : AllPrintable (commaLines (units.map fun u => label name kind u.num)) := by
    refine allPrintable_commaLines fun x hx => ?_
    obtain ⟨u, -, rfl⟩ := List.mem_map.1 hx
    exact allPrintable_label hname kind u.num
  simp (disch := decide) [lookupTable, tableName, allPrintable_ascii, hname, hentries]

theorem allPrintable_headerText (kind : UnitKind) (rw rh : Nat) (units : List EncUnit) :
    AllPrintable (headerText name kind rw rh units) := by
  simp (disch := decide) [headerText, allPrintable_ascii, allPrintable_guardOpen hname, allPrintable_sizeMacros hname,
    allPrintable_unitMacros hname, AllPrintable.flatMap (allPrintable_unitArray hname kind),
    allPrintable_lookupTable hname]

theorem allPrintable_asmSection (u : EncUnit) : AllPrintable (asmSection name u) := by
  have hdefb (c : List Byte) : AllPrintable (defbLine c) := by
    have hliterals := allPrintable_literals (allPrintable_ascii (t := "$") (by decide)) c
    simp (disch := decide) [defbLine, allPrintable_ascii, hliterals]
  simp (disch := decide) [asmSection, allPrintable_ascii, allPrintable_label hname, AllPrintable.flatMap hdefb]

theorem allPrintable_asmText (units : List EncUnit) : AllPrintable (asmText name units) :=
  AllPrintable.flatMap (allPrintable_asmSection hname) units

end

/-- Settles O47: part by part of the two texts. -/
theorem textIsPrintable : Obligations.TextIsPrintable := by
  intro cfg h
  have hname := allPrintable_name h
  exact ⟨allPrintable_headerText hname, allPrintable_asmText hname⟩

end Sys2Proof.Machine
end

section
/-! PROOFS. `pc` and the end of a run, RES, the artefacts' writers, the host's registers, START and RESET (10_state.md). -/

namespace Sys2Proof.Machine

open Sys2Proof

/-! Progress of a run. -/

/-- A command other than END moves on by one and changes neither RUN nor FAULT, or faults where it stands. -/
theorem exec_pc {i : Instr} {s t : State} (hi : i ≠ .endCmd) (h : exec i s = .next t) :
    (t.pc = s.pc + 1 ∧ t.run = s.run ∧ t.fault = s.fault) ∨ (t.pc = s.pc ∧ t.run = false ∧ t.fault ≠ .none) := by
  cases exec_effect h with
  | ends hend => exact absurd hend hi
  | raises c hc _ => exact .inr ⟨rfl, rfl, hc⟩
  | scalar | tiles | sprites | bitmap | banks | pages | header | assembler => left; simp

/-- A command ends the run or moves on by one within it. -/
theorem exec_ends_or_advances {i : Instr} {s t : State} (h : exec i s = .next t) :
    t.run = false ∨ (t.pc = s.pc + 1 ∧ t.run = s.run) := by
  by_cases hi : i = .endCmd
  · subst hi
    cases h
    exact .inl rfl
  · rcases exec_pc hi h with ⟨hpc, hrun, -⟩ | ⟨-, hrun, -⟩
    · exact .inr ⟨hpc, hrun⟩
    · exact .inl hrun

/-- An illegal word faults (46_control.md R271). -/
theorem step_of_illegal {s : State} (hr : s.run = true) (h : decode s.fetch = none) : step s = .next s.illegal := by
  simp only [step, hr, if_true, h]

/-- The fetch at 256 or above ends the run (10_state.md R25, R35). -/
theorem step_of_pc_ge {s : State} (hr : s.run = true) (hpc : 256 ≤ s.pc.toNat) :
    step s = .next (s.raise .illegalCommand 0xFFFFFFFF) := by
  rw [step_of_illegal hr (decode_fetch_of_ge hpc), State.illegal, fetch_of_ge hpc]
  rfl

theorem checked_next (c : FaultCode) (i : Instr) (s t : State) : ∃ u, checked c i s t = .next u := by
  by_cases hc : c = .none
  · exact ⟨t, by rw [hc, checked_none]⟩
  · exact ⟨_, checked_fault hc i s t⟩

/-- Every command answers a next state (46_control.md R271). -/
theorem exec_next (i : Instr) (s : State) : ∃ t, exec i s = .next t := by
  cases i with
  | endCmd | qnt | xlt | t332 | hwb => exact ⟨_, rfl⟩
  | encTNearest | encTExact | encSNearest | encSExact | encBNearest | encBExact | encBTrunc | bank | page | emitH
  | emitA => exact checked_next _ _ _ _

/-- While RUN = 1 the machine steps. -/
theorem step_next_of_run {s : State} (hr : s.run = true) : ∃ t, step s = .next t := by
  simp only [step, hr, if_true]
  split
  · exact exec_next _ s
  · exact ⟨_, rfl⟩

theorem run_succ {s t : State} (h : step s = .next t) (k : Nat) :
    Host.Core.run Sys2Proof.core (k + 1) s = Host.Core.run Sys2Proof.core k t := by
  have hcore : Sys2Proof.core.step s = .next t := h
  simp only [Host.Core.run, hcore]

/-- A running unit whose `pc` is at most `n` words before 256 ends its run within `n + 1` steps. -/
theorem run_ends_within (n : Nat) : ∀ s : State, s.run = true → 256 ≤ s.pc.toNat + n →
    ∃ (k : Nat) (t : State), k ≤ n + 1 ∧ Host.Core.run Sys2Proof.core k s = .next t ∧ t.run = false := by
  induction n with
  | zero =>
    intro s hr hpc
    exact ⟨1, _, le_refl _, run_succ (step_of_pc_ge hr hpc) 0, rfl⟩
  | succ n ih =>
    intro s hr hpc
    obtain ⟨t, hstep⟩ := step_next_of_run hr
    rcases step_cases hstep with ⟨-, i, hi, hexec⟩ | ⟨-, -, rfl⟩ | ⟨hidle, -⟩
    · rcases exec_ends_or_advances hexec with hend | ⟨hnext, hrun⟩
      · exact ⟨1, t, by omega, run_succ hstep 0, hend⟩
      · have hsucc := toNat_succ_pc (pc_lt_of_decode_fetch hi)
        obtain ⟨k, u, hk, hru, hu⟩ := ih t (hrun.trans hr) (by rw [hnext, hsucc]; omega)
        exact ⟨k + 1, u, by omega, (run_succ hstep k).trans hru, hu⟩
    · exact ⟨1, _, by omega, run_succ hstep 0, rfl⟩
    · simp [hr] at hidle

/-- Settles O12, by induction on how far `pc` is before 256. -/
theorem everyExportEnds : Obligations.EveryExportEnds := by
  intro s hr
  obtain ⟨k, t, hk, hrun, ht⟩ := run_ends_within (256 - min s.pc.toNat 256) s hr (by omega)
  exact ⟨k, t, by omega, hrun, ht⟩

/-- Settles O9: a command by its effect, a step by what it can do. -/
theorem programCounterRule : Obligations.ProgramCounterRule := by
  refine ⟨fun s t h => ?_, fun i s t hi h => exec_pc hi h, State.start_pc, fun s t hr hpc h => ?_, fun s t hpc h => ?_⟩
  · cases h
    exact State.finish_pc s
  · rw [step_of_pc_ge hr (by rw [hpc]; decide)] at h
    cases h
    exact ⟨hpc, rfl, rfl⟩
  · rcases step_cases h with ⟨-, i, hi, hexec⟩ | ⟨-, -, rfl⟩ | ⟨-, m, rest, -, he⟩
    · have hlt := pc_lt_of_decode_fetch hi
      by_cases hend : i = .endCmd
      · subst hend
        cases hexec
        exact hpc
      · rcases exec_pc hend hexec with ⟨hnext, -⟩ | ⟨hsame, -⟩
        · rw [hnext, toNat_succ_pc hlt]
          omega
        · rwa [hsame]
    · exact hpc
    · cases he with
      | start | reset => exact Nat.zero_le _
      | ignored | width | height | valid | rasterByte | commandWord => exact hpc

/-- Settles O10: by the effects of commands, none of which writes what the host set. -/
theorem commandsKeepHostState : Obligations.CommandsKeepHostState := by
  intro i s t h
  obtain ⟨hras, hrw, hrh, hrv, hcmd, hcfg⟩ := exec_keeps_host_state h
  exact ⟨hras, hrw, hrh, hrv, hcmd, hcfg, fun a => by rw [hras], fun a => by rw [hcmd]⟩

theorem HostEffect.cfg_eq {s t : State} (e : HostEffect s t) : t.cfg = s.cfg := by
  cases e <;> rfl

/-- Settles O11: neither a command, nor a fault, nor a move of the host writes the configuration. -/
theorem noStepChangesConfiguration : Obligations.NoStepChangesConfiguration := by
  intro s t h
  rcases step_cases h with ⟨-, i, -, hexec⟩ | ⟨-, -, rfl⟩ | ⟨-, m, rest, -, he⟩
  · obtain ⟨-, -, -, -, -, hcfg⟩ := exec_keeps_host_state hexec
    exact hcfg
  · rfl
  · exact he.cfg_eq

/-- Settles O59: the board's configuration is admitted, and every other field has R44's value. -/
theorem resetMeetsInvariant : Obligations.ResetMeetsInvariant :=
  State.inv_cleared (Config.conform_palAdmitted _) (Config.conform_nameAdmitted _) (Memory.wf_nil _) _ _

/-! RES. -/

theorem checked_setRes {c : FaultCode} {i : Instr} {s t u : State} (v : Byte) (h : checked c i s t = .next u) :
    checked c i (s.setRes v) (t.setRes v) = .next (u.setRes v) := by
  rcases checked_cases h with ⟨rfl, rfl⟩ | ⟨hc, rfl⟩
  · rfl
  · exact checked_fault hc _ _ _

/-- A command that is not scalar does not read RES, and passes it on. -/
theorem exec_setRes {i : Instr} {s t : State} (v : Byte) (hi : i.isScalar = false) (h : exec i s = .next t) :
    exec i (s.setRes v) = .next (t.setRes v) := by
  cases i with
  | qnt | xlt | t332 | hwb => simp [Instr.isScalar] at hi
  | endCmd => cases h; rfl
  | encTNearest | encTExact | encSNearest | encSExact | encBNearest | encBExact | encBTrunc | bank | page | emitH
  | emitA => exact checked_setRes v h

/-- A scalar command overwrites RES. -/
theorem exec_setRes_of_scalar {i : Instr} {s t : State} (v : Byte) (hi : i.isScalar = true) (h : exec i s = .next t) :
    exec i (s.setRes v) = .next t := by
  cases i with
  | qnt | xlt | t332 | hwb => exact h
  | endCmd | encTNearest | encTExact | encSNearest | encSExact | encBNearest | encBExact | encBTrunc | bank | page
  | emitH | emitA => simp [Instr.isScalar] at hi

/-- A palette index has no bits in 7:4 (10_state.md R22). -/
theorem indexByte_high (i : BitVec 4) : (indexByte i).extractLsb' 4 4 = 0 := by
  refine BitVec.eq_of_toNat_eq ?_
  simp only [indexByte, BitVec.extractLsb'_toNat, BitVec.toNat_setWidth, Nat.shiftRight_eq_div_pow]
  have := i.isLt
  rw [Nat.mod_eq_of_lt (by omega), Nat.div_eq_of_lt (by omega)]
  rfl

/-- Only the scalar commands write RES. -/
theorem exec_keeps_res {i : Instr} {s t : State} (hi : i.isScalar = false) (h : exec i s = .next t) :
    t.res = s.res := by
  cases exec_effect h with
  | scalar v hs => simp [hi] at hs
  | ends | raises | tiles | sprites | bitmap | banks | pages | header | assembler => simp

theorem hostRead_of_idle {s : State} (q : HostRead) (hr : s.run = false) : s.hostRead q = some (s.window q) := by
  simp [State.hostRead, hr]

/-- Settles O26: RES passes through every command but the scalar ones, which overwrite it. -/
theorem resRegister : Obligations.ResRegister := by
  refine ⟨fun i s t => exec_keeps_res, fun s t r g b h => ?_, fun i s t v h => ?_, rfl, State.start_res,
    fun s => hostRead_of_idle (.reg 3)⟩
  · rcases h with h | h <;> cases h <;> exact indexByte_high _
  · cases hi : i.isScalar with
    | true => exact ⟨t, exec_setRes_of_scalar v hi h, rfl, fun _ => rfl⟩
    | false => exact ⟨t.setRes v, exec_setRes v hi h, rfl, nofun⟩

/-- Settles O49: by the effects of commands. -/
theorem artefactWriters : Obligations.ArtefactWriters := by
  intro i s t _ h
  cases exec_effect h with
  | ends hi => subst hi; simp [Instr.isEncode, Instr.isPartition, Instr.isEmit]
  | scalar v hi => cases i <;> simp_all [Instr.isScalar, Instr.isEncode, Instr.isPartition, Instr.isEmit]
  | raises c hc _ => simp [hc]
  | tiles m hi | sprites m hi | bitmap m hi =>
    subst hi
    cases m <;> simp [tileCommand, spriteCommand, bitmapCommand, Instr.isEncode, Instr.isEmit]
  | banks hi | pages _ _ hi => subst hi; simp [Instr.isEncode, Instr.isPartition, Instr.isEmit]
  | header hi | assembler hi => subst hi; simp [Instr.isEncode, Instr.isPartition, Instr.isEmit]

/-! The host's registers. -/

theorem hostMove_writeReg_zero (v : Word) (s : State) : hostMove (.writeReg 0 v) s = .next (s.writeCtrl v) := rfl

theorem writeCtrl_of_run {s : State} (v : Word) (hr : s.run = true) : s.writeCtrl v = s := by
  simp [State.writeCtrl, hr]

theorem writeCtrl_reset {s : State} {v : Word} (hr : s.run = false) (hreset : v.getLsbD 1 = true) :
    s.writeCtrl v = s.resetAction := by
  simp only [State.writeCtrl, hr, hreset]
  rfl

theorem writeCtrl_start {s : State} {v : Word} (hr : s.run = false) (hreset : v.getLsbD 1 = false)
    (hstart : v.getLsbD 0 = true) : s.writeCtrl v = s.start := by
  simp only [State.writeCtrl, hr, hreset, hstart]
  rfl

theorem writeCtrl_neither {s : State} {v : Word} (hr : s.run = false) (hreset : v.getLsbD 1 = false)
    (hstart : v.getLsbD 0 = false) : s.writeCtrl v = s := by
  simp only [State.writeCtrl, hr, hreset, hstart]
  rfl

/-- Settles O50. -/
theorem startAction : Obligations.StartAction := by
  intro s v hr hstart hreset
  rw [hostMove_writeReg_zero, writeCtrl_start hr hreset hstart]
  rfl

/-- Settles O51: START keeps only the fields in which the two units are alike. -/
theorem startForgetsEarlierExports : Obligations.StartForgetsEarlierExports := by
  intro s s' hcfg hrv hrw hrh hras hcmd hhost hresets
  simp only [State.start, hcfg, hrv, hrw, hrh, hras, hcmd, hhost, hresets]

/-- Settles O52: by the cases of a write to CTRL. -/
theorem controlRegister : Obligations.ControlRegister := by
  refine ⟨fun s v hr => ?_, fun s v hr hreset => ?_, fun s v hr hreset hstart => ?_, fun s v hr hreset hstart => ?_,
    fun s => hostRead_of_idle (.reg 0)⟩ <;> rw [hostMove_writeReg_zero]
  · rw [writeCtrl_of_run v hr]
  · rw [writeCtrl_reset hr hreset]
  · rw [writeCtrl_start hr hreset hstart]
  · rw [writeCtrl_neither hr hreset hstart]

/-- Settles O53: both states are R44's table, around a raster in canonical form. -/
theorem resetValues : Obligations.ResetValues := by
  intro s t h
  have htable : ∃ (cfg : Config) (ras : Memory 8) (host : List HostMove) (n : Nat),
      s = State.cleared cfg ras host n ∧ Memory.wf rasCapacity ras = true := by
    rcases h with rfl | rfl
    · exact ⟨_, _, _, _, rfl, Memory.wf_nil _⟩
    · exact ⟨_, _, _, _, rfl, Memory.wf_canon _ _⟩
  have hreset : s = t.resetAction → s.cfg = t.cfg := by rintro rfl; rfl
  have hboard : s = State.reset → s.cfg.palAt 0 = black ∧ s.cfg.palAt 8 = black ∧ s.cfg.palAt 15 = white ∧
      s.cfg.PalAdmitted ∧ s.cfg.NameAdmitted := by
    rintro rfl
    have hpal : Config.board.PalAdmitted := Config.conform_palAdmitted _
    have ⟨hzero, height, hwhite, _⟩ := hpal
    exact ⟨hzero, height, hwhite, hpal, Config.conform_nameAdmitted _⟩
  obtain ⟨cfg, ras, host, n, rfl, hwf⟩ := htable
  exact ⟨rfl, rfl, rfl, rfl, rfl, rfl, rfl, rfl, rfl, rfl, rfl, rfl, rfl, rfl, rfl, rfl, rfl, rfl, fun _ _ => rfl, hwf,
    hreset, rfl, hboard⟩

/-- STATUS may be read at any time (10_state.md R48). -/
theorem hostRead_status (s : State) : s.hostRead (.reg 1) = some s.status := by
  rw [State.hostRead, if_neg (by simp)]
  rfl

theorem status_ukind (s : State) : s.status.extractLsb' 6 2 = s.ukind.code := by
  refine BitVec.eq_of_getLsbD_eq fun i hi => ?_
  simp only [State.status, BitVec.getLsbD_extractLsb', BitVec.getLsbD_append]
  interval_cases i <;> simp

theorem status_fault (s : State) : s.status.extractLsb' 8 4 = s.fault.code := by
  refine BitVec.eq_of_getLsbD_eq fun i hi => ?_
  simp only [State.status, BitVec.getLsbD_extractLsb', BitVec.getLsbD_append]
  interval_cases i <;> simp

theorem status_high (s : State) : s.status.extractLsb' 12 20 = 0 := by
  refine BitVec.eq_of_getLsbD_eq fun i hi => ?_
  simp only [State.status, BitVec.getLsbD_extractLsb', BitVec.getLsbD_append, hi]
  simp

theorem status_flags (s : State) : s.status.getLsbD 0 = s.run ∧ s.status.getLsbD 1 = s.done ∧
    s.status.getLsbD 2 = s.rv ∧ s.status.getLsbD 3 = s.fv ∧ s.status.getLsbD 4 = s.uv ∧ s.status.getLsbD 5 = s.tv := by
  simp only [State.status, BitVec.getLsbD_append]
  simp

/-- Settles O54: field by field of the STATUS word. -/
theorem statusRegister : Obligations.StatusRegister := by
  intro s
  obtain ⟨hrun, hdone, hrv, hfv, huv, htv⟩ := status_flags s
  refine ⟨s.status, hostRead_status s, hrun, hdone, hrv, hfv, huv, htv, ?_, ?_, status_high s⟩
  · rw [status_ukind]
    cases s.ukind <;> rfl
  · rw [status_fault]
    cases s.fault <;> rfl

theorem writeReg_ignored {s : State} {n : Byte} (v : Word) (hctrl : n ≠ 0)
    (h : s.run = true ∨ (n ≠ 4 ∧ n ≠ 5 ∧ n ≠ 12)) : s.writeReg n v = s := by
  have number (k : Byte) (hk : n.toNat = k.toNat) : n = k := BitVec.eq_of_toNat_eq hk
  unfold State.writeReg
  split
  · next hn => exact absurd (number 0 hn) hctrl
  · next hn => exact if_pos (by simpa [number 4 hn] using h)
  · next hn => exact if_pos (by simpa [number 5 hn] using h)
  · next hn => exact if_pos (by simpa [number 12 hn] using h)
  · rfl

theorem readReg_reserved {n : Byte} (s : State) (hn : 13 ≤ n.toNat) : s.readReg n = 0 := by
  unfold State.readReg
  split <;> simp_all

/-- A count that fits in 16 bits is read as it is. -/
theorem setWidth_ofNat_length {n : Nat} (h : n ≤ 49152) : (BitVec.ofNat 16 n).setWidth 32 = BitVec.ofNat 32 n := by
  refine BitVec.eq_of_toNat_eq ?_
  simp only [BitVec.toNat_setWidth, BitVec.toNat_ofNat]
  omega

/-- Settles O55. -/
theorem registerMap : Obligations.RegisterMap := by
  refine ⟨fun s v hr => ?_, fun s n v hctrl h => congrArg Host.Outcome.next (writeReg_ignored v hctrl h),
    fun s hr => ?_, fun s n hr hn => ?_⟩
  · simp [hostMove, State.writeReg, hr]
  · simp only [hostRead_of_idle _ hr, State.window]
    refine ⟨rfl, rfl, rfl, rfl, rfl, rfl, ?_, fun h => ?_, fun h => ?_, rfl⟩
    · cases hrv : s.rv <;> simp [State.readReg, hrv]
    · exact congrArg some (setWidth_ofNat_length h)
    · exact congrArg some (setWidth_ofNat_length h)
  · rw [hostRead_of_idle _ hr]
    exact congrArg some (readReg_reserved s hn)

end Sys2Proof.Machine
end

section
/-! PROOFS. The family of 20_memory.md: the host's writes to the memories, the raster's layout, the host's windows, and
what the encoders read of the raster. -/

namespace Sys2Proof.Machine

open Sys2Proof

/-! The host's writes to the memories (20_memory.md R61, R67). -/

theorem hostMove_writeRas {s : State} {a : Nat} (v : Byte) (hr : s.run = false) (ha : a < rasCapacity) :
    hostMove (.writeRas a v) s = .next { s with ras := s.ras.write a v } := by
  simp only [hostMove, hr, ha, if_true]
  rfl

theorem hostMove_writeCmd {s : State} {i : Nat} (w : Word) (hr : s.run = false) (hi : i < cmdDepth) :
    hostMove (.writeCmd i w) s = .next { s with cmd := s.cmd.write i w } := by
  simp only [hostMove, hr, hi, if_true]
  rfl

/-- A host write of a raster byte that is answered changes that memory alone. -/
theorem eq_of_hostMove_writeRas {s t : State} {a : Nat} {v : Byte} (h : hostMove (.writeRas a v) s = .next t) :
    t = { s with ras := s.ras.write a v } := by
  simp only [hostMove] at h
  split at h
  · cases h
  · split at h
    · exact (Host.Outcome.next.inj h).symm
    · cases h

/-- Settles O57: a write inside a memory in canonical form is the memory's own write. -/
theorem hostMemoryWrites : Obligations.HostMemoryWrites := by
  refine ⟨fun s a v ⟨hras, _⟩ hr ha => ?_, fun s i w ⟨_, hcmd⟩ hr hi => ?_⟩
  · exact ⟨_, hostMove_writeRas v hr ha, Memory.wf_write v ha hras,
      Memory.read_write_same a v (Memory.wf_ascending hras), fun b hb => Memory.read_write_other v hb s.ras⟩
  · exact ⟨_, hostMove_writeCmd w hr hi, Memory.wf_write w hi hcmd,
      Memory.read_write_same i w (Memory.wf_ascending hcmd), fun j hj => Memory.read_write_other w hj s.cmd⟩

/-! The raster's layout (20_memory.md R62). -/

/-- The pixel of index `p`, at bytes `4p` to `4p + 3` of a raster memory (R62). -/
def Memory.pixelAt (m : Memory 8) (p : Nat) : Pixel :=
  ⟨⟨m.read (4 * p), m.read (4 * p + 1), m.read (4 * p + 2)⟩, m.read (4 * p + 3)⟩

/-- The raster memory after a write of the four channels of pixel `p`, in the order of their bytes (R62). -/
def Memory.writePixel (m : Memory 8) (p : Nat) (q : Pixel) : Memory 8 :=
  (((m.write (4 * p) q.rgb.r).write (4 * p + 1) q.rgb.g).write (4 * p + 2) q.rgb.b).write (4 * p + 3) q.a

/-- `RAS(x, y)` is the pixel of index `y·RW + x` (R62). -/
theorem State.pixel_eq_pixelAt (s : State) (x y : Nat) : s.pixel x y = s.ras.pixelAt (y * s.rw.toNat + x) := rfl

theorem Memory.pixelAt_writePixel_same {m : Memory 8} (h : Memory.ascending 0 m = true) (p : Nat) (q : Pixel) :
    (m.writePixel p q).pixelAt p = q := by
  have hr := Memory.ascending_write (4 * p) q.rgb.r (Nat.zero_le _) h
  have hg := Memory.ascending_write (4 * p + 1) q.rgb.g (Nat.zero_le _) hr
  have hb := Memory.ascending_write (4 * p + 2) q.rgb.b (Nat.zero_le _) hg
  simp [Memory.pixelAt, Memory.writePixel, Memory.read_write_other, Memory.read_write_same _ _ h,
    Memory.read_write_same _ _ hr, Memory.read_write_same _ _ hg, Memory.read_write_same _ _ hb]

/-- The bytes of two pixels do not overlap. -/
theorem Memory.pixelAt_writePixel_other {p p' : Nat} (h : p' ≠ p) (m : Memory 8) (q : Pixel) :
    (m.writePixel p q).pixelAt p' = m.pixelAt p' := by
  have keeps (j : Nat) (hj : j / 4 = p') : (m.writePixel p q).read j = m.read j := by
    unfold Memory.writePixel
    rw [Memory.read_write_other _ (by omega), Memory.read_write_other _ (by omega),
      Memory.read_write_other _ (by omega), Memory.read_write_other _ (by omega)]
  simp only [Memory.pixelAt, keeps (4 * p') (by omega), keeps (4 * p' + 1) (by omega), keeps (4 * p' + 2) (by omega),
    keeps (4 * p' + 3) (by omega)]

/-- The host's four writes of a pixel's channels are one write of the pixel. -/
theorem hostMove_writePixel {s t1 t2 t3 t : State} {p : Nat} {r g b a : Byte}
    (h1 : hostMove (.writeRas (4 * p) r) s = .next t1) (h2 : hostMove (.writeRas (4 * p + 1) g) t1 = .next t2)
    (h3 : hostMove (.writeRas (4 * p + 2) b) t2 = .next t3) (h4 : hostMove (.writeRas (4 * p + 3) a) t3 = .next t) :
    t = { s with ras := s.ras.writePixel p ⟨⟨r, g, b⟩, a⟩ } := by
  obtain rfl := eq_of_hostMove_writeRas h1
  obtain rfl := eq_of_hostMove_writeRas h2
  obtain rfl := eq_of_hostMove_writeRas h3
  exact eq_of_hostMove_writeRas h4

/-- Settles O58: the four writes are one write of pixel `p`, which no pixel of another index overlaps. -/
theorem rasterLayout : Obligations.RasterLayout := by
  intro s t1 t2 t3 t x y p r g b a ⟨hras, _⟩ _ _ _ _ _ hp h1 h2 h3 h4
  obtain rfl := hostMove_writePixel h1 h2 h3 h4
  refine ⟨?_, fun x' y' hne => Memory.pixelAt_writePixel_other hne _ _⟩
  rw [State.pixel_eq_pixelAt, ← hp]
  exact Memory.pixelAt_writePixel_same (Memory.wf_ascending hras) _ _

/-! The host's windows (20_memory.md R61). -/

/-- A read inside a window of bytes gives the byte. -/
theorem window_byte_inside {l : List Byte} {o : Nat} {v : Byte} (h : l[o]? = some v) :
    (l.getD o 0).setWidth 32 = v.setWidth 32 := by
  rw [List.getD_eq_getElem?_getD, h, Option.getD_some]

/-- A read outside a window of bytes gives 0. -/
theorem window_byte_outside {l : List Byte} {o : Nat} (h : l.length ≤ o) : (l.getD o 0).setWidth 32 = (0 : Word) := by
  rw [List.getD_eq_default _ _ h]
  rfl

section
variable {s : State} {k : Nat}

theorem window_unit_present {u : EncUnit} (h : s.units[k]? = some u) :
    s.window (.unitNum k) = u.num.setWidth 32 ∧
      s.window (.unitLen k) = (BitVec.ofNat 16 u.bytes.length).setWidth 32 ∧
      ∀ o, s.window (.unitByte k o) = (u.bytes.getD o 0).setWidth 32 := by
  simp [State.window, h]

theorem window_unit_absent (h : s.units.length ≤ k) :
    s.window (.unitNum k) = 0 ∧ s.window (.unitLen k) = 0 ∧ ∀ o, s.window (.unitByte k o) = 0 := by
  simp [State.window, List.getElem?_eq_none h]

end

/-- Settles O56: while RUN = 0 a read gives what the window yields. -/
theorem hostWindows : Obligations.HostWindows := by
  intro s hr
  simp only [hostRead_of_idle _ hr]
  refine ⟨fun a => rfl, fun o v h => congrArg some (window_byte_inside h),
    fun o h => congrArg some (window_byte_outside h), fun k u h => ?_, fun k o h => ?_,
    fun o v h => congrArg some (window_byte_inside h), fun o h => congrArg some (window_byte_outside h)⟩
  · obtain ⟨hnum, hlen, hbyte⟩ := window_unit_present h
    simp only [hbyte]
    exact ⟨congrArg some hnum, congrArg some hlen, fun o v hv => congrArg some (window_byte_inside hv),
      fun o ho => congrArg some (window_byte_outside ho)⟩
  · obtain ⟨hnum, hlen, hbyte⟩ := window_unit_absent h
    exact ⟨congrArg some hnum, congrArg some hlen, congrArg some (hbyte o)⟩

/-! What the encoders read of the raster (20_memory.md R64, R78). -/

/-- A tile block reads the colours of its 8 by 8 pixels (41_tile.md R151). -/
theorem tileBlock_congr {s s' : State} {x0 y0 : Nat} (m : IndexMode) (hcfg : s'.cfg = s.cfg)
    (h : ∀ x y, x < 8 → y < 8 → (s'.pixel (x0 + x) (y0 + y)).rgb = (s.pixel (x0 + x) (y0 + y)).rgb) :
    tileBlock m s' x0 y0 = tileBlock m s x0 y0 := by
  have index (x y : Nat) (hx : x < 8) (hy : y < 8) :
      s'.pixelIndex m (x0 + x) (y0 + y) = s.pixelIndex m (x0 + x) (y0 + y) := by
    simp only [State.pixelIndex, hcfg, h x y hx hy]
  refine rowMajor_congr fun j y hj hy => ?_
  exact congrArg₂ packPair (index (2 * j) y (by omega) hy) (index (2 * j + 1) y (by omega) hy)

/-- A sprite block reads its 16 by 16 pixels, alpha and all (42_sprite.md R171). -/
theorem spriteBlock_congr {s s' : State} {x0 y0 : Nat} (m : IndexMode) (hcfg : s'.cfg = s.cfg)
    (h : ∀ x y, x < 16 → y < 16 → s'.pixel (x0 + x) (y0 + y) = s.pixel (x0 + x) (y0 + y)) :
    spriteBlock m s' x0 y0 = spriteBlock m s x0 y0 := by
  refine rowMajor_congr fun x y hx hy => ?_
  rw [hcfg, h x y hx hy]

/-- A grid depends only on the blocks it covers (20_memory.md R78). -/
theorem gridUnits_congr {side cols rows : Nat} {block block' : Nat → Nat → List Byte}
    (h : ∀ tc tr, tc < cols → tr < rows → block' (side * tc) (side * tr) = block (side * tc) (side * tr)) :
    gridUnits side cols rows block' = gridUnits side cols rows block :=
  rowMajor_congr fun tc tr hc hr => by rw [h tc tr hc hr]

section
variable {i : Instr} {s t : State} (ras : Memory 8)

theorem checked_ras {c : FaultCode} {u : State} (h : checked c i s t = .next u) :
    checked c i { s with ras := ras } { t with ras := ras } = .next { u with ras := ras } := by
  rcases checked_cases h with ⟨rfl, rfl⟩ | ⟨hc, rfl⟩
  · rfl
  · exact checked_fault hc _ _ _

/-- A grid encoder whose covered blocks are alike does the same over another raster. -/
theorem encodeGrid_ras {kind : UnitKind} {side : Nat} {block block' : Nat → Nat → List Byte}
    (hblock : ∀ tc tr, tc < s.rw.toNat / side → tr < s.rh.toNat / side →
      block' (side * tc) (side * tr) = block (side * tc) (side * tr))
    (h : encodeGrid i kind side block s = .next t) :
    encodeGrid i kind side block' { s with ras := ras } = .next { t with ras := ras } := by
  simp only [encodeGrid, gridUnits_congr hblock]
  exact checked_ras ras h

/-- The serializer over another raster whose colours are alike does the same (43_bitmap.md R190). -/
theorem encodeBitmap_ras {m : ColourMode}
    (hrgb : ∀ x y, x < s.rw.toNat → y < s.rh.toNat →
      (State.pixel { s with ras := ras } x y).rgb = (s.pixel x y).rgb)
    (h : encodeBitmap i m s = .next t) :
    encodeBitmap i m { s with ras := ras } = .next { t with ras := ras } := by
  have hbytes : bitmapBytes m { s with ras := ras } = bitmapBytes m s :=
    rowMajor_congr fun x y hx hy => congrArg (bitmapByte m s.cfg) (hrgb x y hx hy)
  simp only [encodeBitmap, hbytes]
  exact checked_ras ras h

end

theorem exec_tileCommand (m : IndexMode) (s : State) :
    exec (tileCommand m) s = encodeGrid (tileCommand m) .tiles 8 (tileBlock m s) s := by
  cases m <;> rfl

theorem exec_spriteCommand (m : IndexMode) (s : State) :
    exec (spriteCommand m) s = encodeGrid (spriteCommand m) .sprites 16 (spriteBlock m s) s := by
  cases m <;> rfl

theorem exec_bitmapCommand (m : ColourMode) (s : State) :
    exec (bitmapCommand m) s = encodeBitmap (bitmapCommand m) m s := by
  cases m <;> rfl

/-- Settles O36: the blocks an encoder covers are alike when what it reads of their pixels is. -/
theorem encodersReadOnlyTheirPixels : Obligations.EncodersReadOnlyTheirPixels := by
  refine ⟨fun m s t ras hread h => ?_, fun m s t ras hread h => ?_, fun m s t ras hread h => ?_⟩
  · rw [exec_tileCommand] at h ⊢
    refine encodeGrid_ras ras (fun tc tr hc hr => ?_) h
    exact tileBlock_congr m rfl fun x y hx hy => hread _ _ (by omega) (by omega)
  · rw [exec_spriteCommand] at h ⊢
    refine encodeGrid_ras ras (fun tc tr hc hr => ?_) h
    exact spriteBlock_congr m rfl fun x y hx hy => hread _ _ (by omega) (by omega)
  · rw [exec_bitmapCommand] at h ⊢
    exact encodeBitmap_ras ras hread h

end Sys2Proof.Machine
end

section
/-! PROOFS. The family of 30_encoding.md: the round trips of the encoder and the decoder, the opcode map, the illegal
words. -/

namespace Sys2Proof

/-! A decoded word is the word of its command, format by format (30_encoding.md R90). -/

section
variable {w : Word} {i : Instr}

/-- Format Z: the payload is zero. -/
theorem encode_of_decodeBare {c : Instr} {op : Byte} (hop : (opField w).toNat = op.toNat) (hc : encode c = wordOf op 0)
    (h : decodeBare c w = some i) : encode i = w := by
  obtain ⟨hpayload, rfl⟩ : payload w = 0 ∧ c = i := by simpa [decodeBare] using h
  rw [eq_wordOf_of_op hop, hpayload, hc]

/-- Format C: the three channels are the whole payload. -/
theorem encode_of_decodeColour {c : Byte → Byte → Byte → Instr} {op : Byte} (hop : (opField w).toNat = op.toNat)
    (hc : ∀ r g b, encode (c r g b) = wordOf op (colourPayload r g b)) (h : decodeColour c w = some i) :
    encode i = w := by
  obtain rfl := Option.some.inj h
  rw [hc, colourPayload_fields, ← eq_wordOf_of_op hop]

/-- Format I: the index is the payload's one nonzero field. -/
theorem encode_of_decodeIndex (hop : (opField w).toNat = 0x04) (h : decodeIndex w = some i) : encode i = w := by
  obtain ⟨hzero, rfl⟩ : w.extractLsb' 4 20 = 0 ∧ Instr.hwb (w.extractLsb' 0 4) = i := by
    simpa [decodeIndex] using h
  rw [encode, indexPayload_fields hzero, ← eq_wordOf_of_op hop]

/-- Format E: with the reserved bits zero, `fmt` and `cm` fix the payload. -/
theorem encode_of_decodeEncoder (hop : (opField w).toNat = 0x10) (h : decodeEncoder w = some i) : encode i = w := by
  unfold decodeEncoder at h
  split at h
  case isFalse => cases h
  case isTrue hreserved =>
    rw [eq_wordOf_of_op (op := 0x10) hop, ← encoderPayload_fields hreserved.1 hreserved.2]
    generalize w.extractLsb' 8 2 = fmt at h ⊢
    generalize w.extractLsb' 0 2 = cm at h ⊢
    have hofNat (v : BitVec 2) : BitVec.ofNat 2 v.toNat = v := by simp
    rw [← hofNat fmt, ← hofNat cm]
    split at h
    case h_8 => cases h
    all_goals
      rename_i hfmt hcm
      obtain rfl := Option.some.inj h
      rw [hfmt, hcm]
      rfl

/-- The decoder drops no bit of a legal word (30_encoding.md R93, R95). -/
theorem encode_of_decode (h : decode w = some i) : encode i = w := by
  unfold decode at h
  split at h
  next hop => exact encode_of_decodeBare (op := 0x00) hop rfl h
  next hop => exact encode_of_decodeColour (op := 0x01) hop (fun _ _ _ => rfl) h
  next hop => exact encode_of_decodeColour (op := 0x02) hop (fun _ _ _ => rfl) h
  next hop => exact encode_of_decodeColour (op := 0x03) hop (fun _ _ _ => rfl) h
  next hop => exact encode_of_decodeIndex hop h
  next hop => exact encode_of_decodeEncoder hop h
  next hop => exact encode_of_decodeBare (op := 0x20) hop rfl h
  next hop =>
    obtain rfl := Option.some.inj h
    rw [encode, pagePayload_fields, ← eq_wordOf_of_op hop]
  next hop => exact encode_of_decodeBare (op := 0x30) hop rfl h
  next hop => exact encode_of_decodeBare (op := 0x31) hop rfl h
  next => cases h

end

/-- Settles O1: command by command, the decoder takes from the word the fields the encoder joined. -/
theorem decodeOfEncode : Obligations.DecodeOfEncode := decode_encode

/-- Settles O2: opcode by opcode, the fields the decoder takes make up the whole word. -/
theorem encodeOfDecode : Obligations.EncodeOfDecode := fun _ _ => encode_of_decode

/-- Settles O5: seventeen closed words, evaluated. -/
theorem sampleWordsDecode : Obligations.SampleWordsDecode := by
  unfold Obligations.SampleWordsDecode
  decide

/-! The opcode map (30_encoding.md R93). -/

/-- A field that the mask keeps whole has its value in the match word. -/
theorem extractLsb'_of_mask {w mask m : Word} {a n : Nat} (h : w &&& mask = m)
    (hmask : mask.extractLsb' a n = BitVec.allOnes n) : w.extractLsb' a n = m.extractLsb' a n := by
  rw [← h, BitVec.extractLsb'_and, hmask, BitVec.and_allOnes]

/-- The word of every command has the fixed bits of its row. -/
theorem encode_fits_row : ∀ i : Instr, Laws.WordFitsRow.Statement i
  | .endCmd => Laws.WordFitsRow.endCmd
  | .qnt r g b => Laws.WordFitsRow.qnt r g b
  | .xlt r g b => Laws.WordFitsRow.xlt r g b
  | .t332 r g b => Laws.WordFitsRow.t332 r g b
  | .hwb idx => Laws.WordFitsRow.hwb idx
  | .encTNearest => Laws.WordFitsRow.encTNearest
  | .encTExact => Laws.WordFitsRow.encTExact
  | .encSNearest => Laws.WordFitsRow.encSNearest
  | .encSExact => Laws.WordFitsRow.encSExact
  | .encBNearest => Laws.WordFitsRow.encBNearest
  | .encBExact => Laws.WordFitsRow.encBExact
  | .encBTrunc => Laws.WordFitsRow.encBTrunc
  | .bank => Laws.WordFitsRow.bank
  | .page base size => Laws.WordFitsRow.page base size
  | .emitH => Laws.WordFitsRow.emitH
  | .emitA => Laws.WordFitsRow.emitA

/-- The mnemonic names the row. -/
theorem row_eq_of_mnemonic_eq {r r' : String × Word × Word} (hr : r ∈ opcodeTable) (hr' : r' ∈ opcodeTable)
    (h : r.1 = r'.1) : r = r' :=
  List.inj_on_of_nodup_map (f := Prod.fst) (by decide) hr hr' h

/-- A row fixes the whole word, or the opcode alone, or it is the row of HWB. -/
theorem row_mask_cases : ∀ r ∈ opcodeTable, r.2.2 = BitVec.allOnes 32 ∨
    r ∈ [("QNT", 0x01000000, 0xFF000000), ("XLT", 0x02000000, 0xFF000000), ("T332", 0x03000000, 0xFF000000),
      ("PAGE", 0x21000000, 0xFF000000)] ∨ r = ("HWB", 0x04000000, 0xFFFFFFF0) := by
  decide

/-- Every row fixes the opcode. -/
theorem mask_fixes_opcode : ∀ r ∈ opcodeTable, r.2.2.extractLsb' 24 8 = BitVec.allOnes 8 := by
  decide

theorem opField_eq_of_matches {w : Word} {r : String × Word × Word} (hr : r ∈ opcodeTable)
    (h : w &&& r.2.2 = r.2.1) : opField w = opField r.2.1 :=
  extractLsb'_of_mask h (mask_fixes_opcode r hr)

/-- The match word of a row is itself a command of the row. -/
theorem decode_match_mnemonic : ∀ r ∈ opcodeTable, (decode r.2.1).map Instr.mnemonic = some r.1 := by
  decide

/-- A word with a row's fixed bits is a command of the row. -/
theorem decode_mnemonic_of_matches {w : Word} {r : String × Word × Word} (hr : r ∈ opcodeTable)
    (h : w &&& r.2.2 = r.2.1) : (decode w).map Instr.mnemonic = some r.1 := by
  have hop := opField_eq_of_matches hr h
  rcases row_mask_cases r hr with hfull | hopcode | rfl
  · rw [hfull, BitVec.and_allOnes] at h
    rw [h]
    exact decode_match_mnemonic r hr
  · simp only [List.mem_cons, List.not_mem_nil, or_false] at hopcode
    rcases hopcode with rfl | rfl | rfl | rfl
    all_goals
      rw [decode, hop]
      rfl
  · have hzero : w.extractLsb' 4 20 = 0 := extractLsb'_of_mask h (by decide)
    rw [decode, hop]
    change (decodeIndex w).map Instr.mnemonic = _
    rw [decodeIndex, if_pos hzero]
    rfl

/-- A word is a command of a row exactly when it has the row's fixed bits. -/
theorem matches_iff {w : Word} {r : String × Word × Word} (hr : r ∈ opcodeTable) :
    w &&& r.2.2 = r.2.1 ↔ ∃ i, decode w = some i ∧ i.mnemonic = r.1 := by
  refine ⟨fun h => Option.map_eq_some_iff.1 (decode_mnemonic_of_matches hr h), fun ⟨i, hi, hname⟩ => ?_⟩
  obtain ⟨r', hr', hname', hfits⟩ := encode_fits_row i
  rwa [encode_of_decode hi, row_eq_of_mnemonic_eq hr' hr (hname'.trans hname)] at hfits

/-- Settles O3: a row's fixed bits decide the decoder's path, and a word has one mnemonic. -/
theorem decodeFollowsOpcodeTable : Obligations.DecodeFollowsOpcodeTable := by
  refine ⟨fun w r hr => matches_iff hr, fun w r hr r' hr' h h' => row_eq_of_mnemonic_eq hr hr' ?_⟩
  exact Option.some.inj ((decode_mnemonic_of_matches hr h).symm.trans (decode_mnemonic_of_matches hr' h'))

/-! Illegal words (30_encoding.md R94). -/

/-- A word that is no command has the fixed bits of no row. -/
theorem decode_eq_none_iff (w : Word) : decode w = none ↔ ∀ r ∈ opcodeTable, w &&& r.2.2 ≠ r.2.1 := by
  constructor
  · intro hnone r hr h
    obtain ⟨i, hi, -⟩ := (matches_iff hr).1 h
    simp [hnone] at hi
  · intro hno
    refine Option.eq_none_iff_forall_ne_some.2 fun i hi => ?_
    obtain ⟨r, hr, -, hfits⟩ := encode_fits_row i
    exact hno r hr (encode_of_decode hi ▸ hfits)

/-- Bits `a` to `a + n - 1` of a word as a number. -/
theorem field_toNat (w : Word) (a n : Nat) : (w.extractLsb' a n).toNat = w.toNat / 2 ^ a % 2 ^ n := by
  rw [BitVec.extractLsb'_toNat, Nat.shiftRight_eq_div_pow]

/-- R94(a): the opcode of a command is one of the ten. -/
theorem opField_mem_of_decode {w : Word} {i : Instr} (h : decode w = some i) :
    (opField w).toNat ∈ [0x00, 0x01, 0x02, 0x03, 0x04, 0x10, 0x20, 0x21, 0x30, 0x31] := by
  rw [← encode_of_decode h]
  cases i <;> simp [encode]

/-- R94(b): a word of format Z with a payload. -/
theorem decode_bare_eq_none {w : Word} (hop : (opField w).toNat ∈ [0x00, 0x20, 0x30, 0x31]) (h : payload w ≠ 0) :
    decode w = none := by
  simp only [List.mem_cons, List.not_mem_nil, or_false] at hop
  rcases hop with hop | hop | hop | hop <;> simp only [decode, hop, decodeBare, h, if_false]

/-- R94(c): a word of format I with a reserved bit set. -/
theorem decode_index_eq_none {w : Word} (hop : (opField w).toNat = 0x04) (h : w.extractLsb' 4 20 ≠ 0) :
    decode w = none := by
  simp only [decode, hop, decodeIndex, h, if_false]

/-- R94(d) to (g): the reserved bits of a legal word of format E are zero, `fmt` and `cm` are at most 2, and TRUNC goes
with bitmaps only. -/
theorem encoder_fields_of_decode {w : Word} {i : Instr} (hop : (opField w).toNat = 0x10) (h : decode w = some i) :
    (w.extractLsb' 10 14).toNat = 0 ∧ (w.extractLsb' 2 6).toNat = 0 ∧ (w.extractLsb' 8 2).toNat ≠ 3 ∧
      (w.extractLsb' 0 2).toNat ≠ 3 ∧ ((w.extractLsb' 0 2).toNat = 2 → (w.extractLsb' 8 2).toNat = 2) := by
  simp only [decode, hop, decodeEncoder] at h
  split at h
  case isFalse => cases h
  case isTrue hreserved =>
    refine ⟨congrArg BitVec.toNat hreserved.1, congrArg BitVec.toNat hreserved.2, ?_⟩
    split at h
    case h_8 => cases h
    all_goals
      rename_i hfmt hcm
      rw [hfmt, hcm]
      decide

/-- Settles O4: a command has a row and a row's words are commands; each of R94's clauses breaks a check of the
decoder; and the step raises on what does not decode. -/
theorem illegalWordsRaise : Obligations.IllegalWordsRaise := by
  refine ⟨decode_eq_none_iff, fun w hop => ?_, fun w hop hpl => ?_, fun w hop hbits => ?_, fun w hop hbits => ?_,
    fun s hr h => Machine.step_of_illegal hr h⟩
  all_goals rw [← opField_toNat] at hop
  · exact Option.eq_none_iff_forall_ne_some.2 fun i h => hop (opField_mem_of_decode h)
  · exact decode_bare_eq_none hop fun h => hpl (by rw [← payload_toNat, h]; rfl)
  · exact decode_index_eq_none hop fun h => hbits (by rw [← field_toNat, h]; rfl)
  · refine Option.eq_none_iff_forall_ne_some.2 fun i h => ?_
    have hfields := encoder_fields_of_decode hop h
    simp only [field_toNat] at hfields
    omega

end Sys2Proof
end

section
/-! PROOFS. The family of 40_palette_quantizer.md: the two palette lookups, `Trunc332`, a tile's layout and the scalar
commands. -/

namespace Sys2Proof.Machine

open Sys2Proof

/-! Nearest entries (40_palette_quantizer.md R124 to R127). -/

theorem sqDist_eq_sq (p c : Rgb) : sqDist p c =
    ((c.r.toNat : Int) - p.r.toNat) ^ 2 + ((c.g.toNat : Int) - p.g.toNat) ^ 2 + ((c.b.toNat : Int) - p.b.toNat) ^ 2 := by
  simp only [sqDist, sq]

@[simp] theorem sqDist_self (c : Rgb) : sqDist c c = 0 := by
  simp [sqDist]

/-- Only a colour itself is at distance 0 or less. -/
theorem eq_of_sqDist_le_zero {p c : Rgb} (h : sqDist p c ≤ 0) : p = c := by
  obtain ⟨pr, pg, pb⟩ := p
  obtain ⟨cr, cg, cb⟩ := c
  simp only [sqDist_eq_sq] at h
  have hr := sq_nonneg ((cr.toNat : Int) - pr.toNat)
  have hg := sq_nonneg ((cg.toNat : Int) - pg.toNat)
  have hb := sq_nonneg ((cb.toNat : Int) - pb.toNat)
  have channel {x y : Byte} (hxy : ((y.toNat : Int) - x.toNat) ^ 2 ≤ 0) : x = y := by
    have := sq_nonpos_iff _ |>.1 hxy
    exact BitVec.eq_of_toNat_eq (by omega)
  rw [channel (x := pr) (y := cr) (by omega), channel (x := pg) (y := cg) (by omega),
    channel (x := pb) (y := cb) (by omega)]

theorem palAt_mem (cfg : Config) (i : BitVec 4) : cfg.palAt i ∈ cfg.pal.toList :=
  List.mem_of_getElem? (pal_toList_getElem? cfg i)

/-- `Quantize` is a scan of the whole palette, from a best distance that `PAL[0]` beats. -/
theorem quantize_eq_scan (cfg : Config) (c : Rgb) :
    quantize cfg c = BitVec.ofNat 4 (nearestFrom c cfg.pal.toList 0 0 (sqDist (cfg.palAt 0) c + 1)) := by
  have hpal : cfg.pal.toList = cfg.palAt 0 :: cfg.pal.toList.drop 1 :=
    List.drop_eq_getElem_cons (i := 0) (by simp)
  rw [hpal, nearestFrom, if_pos (by omega)]
  rfl

/-- What `Quantize` returns: a nearest index, all lower indices being farther. -/
theorem quantize_spec (cfg : Config) (c : Rgb) :
    (∀ j, sqDist (cfg.palAt (quantize cfg c)) c ≤ sqDist (cfg.palAt j) c) ∧
      ∀ j : BitVec 4, j.toNat < (quantize cfg c).toNat →
        sqDist (cfg.palAt (quantize cfg c)) c < sqDist (cfg.palAt j) c := by
  rw [quantize_eq_scan]
  rcases nearestFrom_spec c cfg.pal.toList 0 0 (sqDist (cfg.palAt 0) c + 1) with
    ⟨-, hmin⟩ | ⟨k, p, hr, hp, -, hmin, hfirst⟩
  · have := hmin _ (palAt_mem cfg 0)
    omega
  · obtain ⟨hk, rfl⟩ := pal_toList_lt hp
    rw [hr, Nat.zero_add, BitVec.toNat_ofNat, Nat.mod_eq_of_lt (by simpa using hk)]
    exact ⟨fun j => hmin _ (palAt_mem cfg j), fun j hj => hfirst _ _ hj (pal_toList_getElem? cfg j)⟩

theorem quantize_nearest (cfg : Config) (c : Rgb) (j : BitVec 4) :
    sqDist (cfg.palAt (quantize cfg c)) c ≤ sqDist (cfg.palAt j) c :=
  (quantize_spec cfg c).1 j

/-- `Quantize` is at most every index that is as near as it. -/
theorem quantize_le {cfg : Config} {c : Rgb} {i : BitVec 4}
    (h : sqDist (cfg.palAt i) c ≤ sqDist (cfg.palAt (quantize cfg c)) c) : (quantize cfg c).toNat ≤ i.toNat :=
  Nat.le_of_not_lt fun hlt => absurd h (not_le.2 ((quantize_spec cfg c).2 i hlt))

/-- On a colour of the palette `Quantize` finds that colour. -/
theorem palAt_quantize {cfg : Config} {c : Rgb} {i : BitVec 4} (h : cfg.palAt i = c) :
    cfg.palAt (quantize cfg c) = c :=
  eq_of_sqDist_le_zero (by simpa [h] using quantize_nearest cfg c i)

/-- `Quantize` is at most every index that holds the colour. -/
theorem quantize_le_of_palAt_eq {cfg : Config} {c : Rgb} {i : BitVec 4} (h : cfg.palAt i = c) :
    (quantize cfg c).toNat ≤ i.toNat :=
  quantize_le (by rw [h, palAt_quantize h])

/-- R10(c): in an admitted palette the higher of two equal entries is slot 8. -/
theorem eq_eight_of_palAt_eq {cfg : Config} (h : cfg.PalAdmitted) {i j : BitVec 4} (hlt : i.toNat < j.toNat)
    (he : cfg.palAt i = cfg.palAt j) : j = 8 := by
  obtain ⟨-, -, -, hdistinct⟩ := h
  by_contra hj
  exact hdistinct i.toFin j.toFin hlt (fun h08 => hj (congrArg BitVec.ofFin h08.2)) he

/-- Settles O19: by what the scan finds, the distance written as a sum of squares. -/
theorem quantizeIsNearestLowest : Obligations.QuantizeIsNearestLowest := by
  intro cfg c
  simp only [← sqDist_eq_sq]
  exact ⟨quantize_nearest cfg c, fun i hi => quantize_le (hi _)⟩

/-- Settles O20: slot 0 is as near as slot 8, and lower. -/
theorem quantizeNeverEight : Obligations.QuantizeNeverEight := by
  intro cfg c h08 h8
  have hle : (quantize cfg c).toNat ≤ (0 : BitVec 4).toNat := quantize_le (by rw [h8, h08])
  rw [h8] at hle
  exact absurd hle (by decide)

/-- Settles O21: the least index of a colour is every index but 8 of an admitted palette, and 0 for slot 8. -/
theorem quantizeOfPaletteColour : Obligations.QuantizeOfPaletteColour := by
  refine ⟨fun cfg i => ⟨palAt_quantize rfl, fun j hj => quantize_le_of_palAt_eq hj⟩,
    fun cfg hadm => ⟨?_, fun i hi => ?_⟩⟩
  · have h08 : cfg.palAt 0 = cfg.palAt 8 := hadm.1.trans hadm.2.1.symm
    exact BitVec.eq_of_toNat_eq (Nat.le_zero.1 (quantize_le_of_palAt_eq h08))
  · refine BitVec.eq_of_toNat_eq (le_antisymm (quantize_le_of_palAt_eq rfl) (Nat.le_of_not_lt fun hlt => ?_))
    exact hi (eq_eight_of_palAt_eq hadm hlt (palAt_quantize rfl))

/-! Equal entries (40_palette_quantizer.md R128, R129). -/

/-- What `ExactLookup` returns: the first index that holds the colour, or 0 when none does. -/
theorem exactLookup_spec (cfg : Config) (c : Rgb) :
    (cfg.palAt (exactLookup cfg c) = c ∧ ∀ j : BitVec 4, j.toNat < (exactLookup cfg c).toNat → cfg.palAt j ≠ c) ∨
      (exactLookup cfg c = 0 ∧ ∀ j, cfg.palAt j ≠ c) := by
  unfold exactLookup
  rcases exactFrom_spec c cfg.pal.toList 0 with ⟨k, hr, hk, hfirst⟩ | ⟨hr, hc⟩
  · obtain ⟨hk16, hpal⟩ := pal_toList_lt hk
    rw [hr, Nat.zero_add, BitVec.toNat_ofNat, Nat.mod_eq_of_lt (by simpa using hk16)]
    exact .inl ⟨hpal, fun j hj he => hfirst _ hj (he ▸ pal_toList_getElem? cfg j)⟩
  · exact .inr ⟨by rw [hr]; rfl, fun j he => hc (he ▸ palAt_mem cfg j)⟩

/-- On a colour of the palette `ExactLookup` finds that colour. -/
theorem palAt_exactLookup {cfg : Config} {c : Rgb} {i : BitVec 4} (h : cfg.palAt i = c) :
    cfg.palAt (exactLookup cfg c) = c := by
  rcases exactLookup_spec cfg c with ⟨hpal, -⟩ | ⟨-, hnone⟩
  · exact hpal
  · exact absurd h (hnone i)

/-- `ExactLookup` is at most every index that holds the colour. -/
theorem exactLookup_le {cfg : Config} {c : Rgb} {i : BitVec 4} (h : cfg.palAt i = c) :
    (exactLookup cfg c).toNat ≤ i.toNat := by
  rcases exactLookup_spec cfg c with ⟨-, hfirst⟩ | ⟨-, hnone⟩
  · exact Nat.le_of_not_lt fun hlt => hfirst i hlt h
  · exact absurd h (hnone i)

theorem exactLookup_eq_zero {cfg : Config} {c : Rgb} (h : ∀ i, cfg.palAt i ≠ c) : exactLookup cfg c = 0 := by
  rcases exactLookup_spec cfg c with ⟨hpal, -⟩ | ⟨hzero, -⟩
  · exact absurd hpal (h _)
  · exact hzero

/-- Settles O22: the first match is at most every match, so slot 0 for black. -/
theorem exactLookupFirstMatch : Obligations.ExactLookupFirstMatch :=
  ⟨fun _ _ _ h => ⟨palAt_exactLookup h, exactLookup_le h⟩, fun _ _ h => exactLookup_eq_zero h,
    fun _ h => BitVec.eq_of_toNat_eq (Nat.le_zero.1 (exactLookup_le h))⟩

/-- Settles O23: both functions give the least index that holds a colour of the palette. -/
theorem exactLookupAgreesWithQuantize : Obligations.ExactLookupAgreesWithQuantize := by
  refine ⟨fun cfg c i h => ?_, fun cfg c h => ⟨exactLookup_eq_zero h, quantize_nearest cfg c⟩⟩
  exact BitVec.eq_of_toNat_eq
    (le_antisymm (exactLookup_le (palAt_quantize h)) (quantize_le_of_palAt_eq (palAt_exactLookup h)))

/-! Bit fields (40_palette_quantizer.md R130, 41_tile.md R150). -/

theorem toNat_append_eq {m n : Nat} (x : BitVec m) (y : BitVec n) : (x ++ y).toNat = x.toNat * 2 ^ n + y.toNat := by
  rw [BitVec.toNat_append, ← Nat.shiftLeft_add_eq_or_of_lt y.isLt, Nat.shiftLeft_eq]

/-- R130: `Trunc332` is the channels' top bits side by side. -/
theorem trunc332_eq_append (c : Rgb) :
    trunc332 c = c.r.extractLsb' 5 3 ++ c.g.extractLsb' 5 3 ++ c.b.extractLsb' 6 2 := by
  refine BitVec.eq_of_getLsbD_eq fun i hi => ?_
  simp only [trunc332, BitVec.getLsbD_append, BitVec.getLsbD_extractLsb']
  interval_cases i <;> simp

/-- Settles O24: each field is read off the three channels' top bits side by side. -/
theorem trunc332Bits : Obligations.Trunc332Bits := by
  intro c
  rw [trunc332_eq_append]
  refine ⟨?_, ?_, BitVec.extractLsb'_append_eq_right, ?_⟩
  · exact (BitVec.extractLsb'_append_eq_of_le (by decide)).trans BitVec.extractLsb'_append_eq_left
  · exact (BitVec.extractLsb'_append_eq_of_le (by decide)).trans BitVec.extractLsb'_append_eq_right
  · simp only [toNat_append_eq, BitVec.extractLsb'_toNat, Nat.shiftRight_eq_div_pow]
    have := c.r.isLt
    have := c.g.isLt
    have := c.b.isLt
    omega

/-- R150: a pair of indices is the two nibbles side by side. -/
theorem packPair_eq_append (left right : BitVec 4) : packPair left right = left ++ right :=
  BitVec.setWidth_append_eq_shiftLeft_setWidth_or.symm.trans (BitVec.setWidth_eq _)

@[simp] theorem packPair_high (left right : BitVec 4) : (packPair left right).extractLsb' 4 4 = left := by
  rw [packPair_eq_append]
  exact BitVec.extractLsb'_append_eq_left

@[simp] theorem packPair_low (left right : BitVec 4) : (packPair left right).extractLsb' 0 4 = right := by
  rw [packPair_eq_append]
  exact BitVec.extractLsb'_append_eq_right

/-- R150: byte `4y + j` of a tile is the pair of row `y` at columns `2j` and `2j + 1`. -/
theorem tileBlock_getElem? (m : IndexMode) (s : State) (x0 y0 : Nat) {y j : Nat} (hy : y < 8) (hj : j < 4) :
    (tileBlock m s x0 y0)[4 * y + j]? =
      some (packPair (s.pixelIndex m (x0 + 2 * j) (y0 + y)) (s.pixelIndex m (x0 + 2 * j + 1) (y0 + y))) := by
  rw [Nat.mul_comm]
  exact rowMajor_getElem? _ hj hy

/-- Settles O27: a tile is its bytes row by row, each a packed pair. -/
theorem tileBlockLayout : Obligations.TileBlockLayout := by
  intro m index s x0 y0 hindex
  have hresolve : resolve m s.cfg = index := by
    rcases hindex with ⟨rfl, rfl⟩ | ⟨rfl, rfl⟩ <;> rfl
  refine ⟨hresolve, tileBlock_length m s x0 y0, fun y j hy hj => ⟨_, tileBlock_getElem? m s x0 y0 hy hj, ?_⟩⟩
  simp only [packPair_high, packPair_low, State.pixelIndex, hresolve, and_self]

/-! The scalar commands (40_palette_quantizer.md R134). -/

theorem scalar_eq (v : Byte) (s : State) : scalar v s = .next { s with res := v, pc := s.pc + 1 } := rfl

/-- Settles O25: each of the four is `scalar` of its value. -/
theorem scalarCommands : Obligations.ScalarCommands :=
  fun s _ _ _ _ => ⟨scalar_eq _ s, scalar_eq _ s, scalar_eq _ s, scalar_eq _ s⟩

end Sys2Proof.Machine
end

section
/-! PROOFS. The family of 41_tile.md: the round trip of a solid block, and what ENC.T does with a valid raster. -/

namespace Sys2Proof.Machine

open Sys2Proof

/-! Solid blocks (41_tile.md R152). -/

theorem rowMajor_eq_replicate {α : Type} {cols rows : Nat} {f : Nat → Nat → α} {a : α}
    (h : ∀ x y, x < cols → y < rows → f x y = a) : rowMajor cols rows f = List.replicate (rows * cols) a := by
  refine List.eq_replicate_iff.2 ⟨rowMajor_length cols rows f, fun b hb => ?_⟩
  obtain ⟨x, y, hx, hy, rfl⟩ := mem_rowMajor.1 hb
  exact h x y hx hy

/-- On a colour of the palette both modes give the index of `Quantize` (40_palette_quantizer.md R129). -/
theorem resolve_palAt (m : IndexMode) (cfg : Config) (c : BitVec 4) :
    resolve m cfg (cfg.palAt c) = quantize cfg (cfg.palAt c) := by
  cases m with
  | nearest => rfl
  | exact => exact exactLookupAgreesWithQuantize.1 cfg _ c rfl

/-- A block whose pixels all have one colour is 32 bytes of that colour's index twice. -/
theorem tileBlock_of_solid (m : IndexMode) {s : State} {x0 y0 : Nat} {c : Rgb}
    (h : ∀ x y, x < 8 → y < 8 → (s.pixel (x0 + x) (y0 + y)).rgb = c) :
    tileBlock m s x0 y0 = List.replicate 32 (resolve m s.cfg c ++ resolve m s.cfg c : BitVec 8) := by
  have index (x y : Nat) (hx : x < 8) (hy : y < 8) : s.pixelIndex m (x0 + x) (y0 + y) = resolve m s.cfg c :=
    congrArg (resolve m s.cfg) (h x y hx hy)
  refine rowMajor_eq_replicate fun j y hj hy => ?_
  rw [index (2 * j) y (by omega) hy, Nat.add_assoc, index (2 * j + 1) y (by omega) hy, packPair_eq_append]

/-- Settles O28: the index is `Quantize` of the block's colour in both modes. -/
theorem tileRoundTrip : Obligations.TileRoundTrip := by
  intro m s x0 y0 c hsolid
  obtain ⟨hleast, hadmitted⟩ := quantizeOfPaletteColour
  obtain ⟨hcolour, hle⟩ := hleast s.cfg c
  refine ⟨quantize s.cfg (s.cfg.palAt c), hcolour, hle, ?_, fun hadm => ?_⟩
  · rw [tileBlock_of_solid m hsolid, resolve_palAt]
  · obtain ⟨hslot8, hother⟩ := hadmitted s.cfg hadm
    exact ⟨hother c, fun hc => hc ▸ hslot8⟩

/-! Grid encoders with a valid raster (41_tile.md R153, R155, R156). -/

theorem encodeCheck_of_range {s : State} (hrv : s.rv = true) (hw : 1 ≤ s.rw.toNat) (hw' : s.rw.toNat ≤ 256)
    (hh : 1 ≤ s.rh.toNat) (hh' : s.rh.toNat ≤ 192) : s.encodeCheck = .none :=
  (encodeCheck_none_iff s).2 ⟨hrv, (dimsOk_iff s).2 ⟨hw, hw', hh, hh'⟩⟩

/-- A grid encoder whose checks pass: the units of its whole blocks, FLAT and TXT dropped, `pc` one further. -/
theorem encodeGrid_of_check {s : State} (hcheck : s.encodeCheck = .none) (i : Instr) (kind : UnitKind) (side : Nat)
    (block : Nat → Nat → List Byte) :
    encodeGrid i kind side block s = .next { s with
      units := gridUnits side (s.rw.toNat / side) (s.rh.toNat / side) block, uv := true, ukind := kind,
      gcols := BitVec.ofNat 16 (s.rw.toNat / side), grows := BitVec.ofNat 16 (s.rh.toNat / side),
      flat := [], fv := false, txt := [], tv := false, pc := s.pc + 1 } := by
  rw [encodeGrid, hcheck]
  rfl

/-- Settles O29: ENC.T is a grid encoder of 8 by 8 blocks whose checks pass. -/
theorem encodeTilesResult : Obligations.EncodeTilesResult := by
  intro m s hrv hw hw' hh hh'
  refine ⟨gridUnits 8 (s.rw.toNat / 8) (s.rh.toNat / 8) (tileBlock m s), ?_, ?_,
    fun tc tr hc hr => gridUnits_getElem? (tileBlock m s) hc hr⟩
  · rw [exec_tileCommand]
    exact encodeGrid_of_check (encodeCheck_of_range hrv hw hw' hh hh') _ _ _ _
  · rw [gridUnits_length, Nat.mul_comm]

end Sys2Proof.Machine
end

section
/-! PROOFS. The family of 42_sprite.md: a sprite's layout and byte values, and what ENC.S does with a valid raster. -/

namespace Sys2Proof.Machine

open Sys2Proof

/-! The byte of one pixel (42_sprite.md R171, R173). -/

/-- The sentinel for alpha below 128, else the colour's index with four zero bits before it. -/
theorem spritePixel_eq (m : IndexMode) (cfg : Config) (p : Pixel) :
    spritePixel m cfg p = if p.a.toNat < 128 then 0xE3 else (resolve m cfg p.rgb).setWidth 8 :=
  rfl

theorem spritePixel_of_transparent {p : Pixel} (h : p.a.toNat < 128) (m : IndexMode) (cfg : Config) :
    spritePixel m cfg p = 0xE3 :=
  if_pos h

theorem spritePixel_of_opaque {p : Pixel} (h : ¬ p.a.toNat < 128) (m : IndexMode) (cfg : Config) :
    spritePixel m cfg p = (resolve m cfg p.rgb).setWidth 8 :=
  if_neg h

/-- Slot 0 is found before slot 8 of the same colour, and is the answer when nothing is found. -/
theorem exactLookup_ne_eight {cfg : Config} (h : cfg.palAt 8 = cfg.palAt 0) (c : Rgb) : exactLookup cfg c ≠ 8 := by
  intro h8
  rcases exactLookup_spec cfg c with ⟨hpal, hfirst⟩ | ⟨hzero, -⟩
  · rw [h8] at hpal hfirst
    exact hfirst 0 (by decide) (h.symm.trans hpal)
  · exact absurd (hzero.symm.trans h8) (by decide)

/-- With `PAL[8] = PAL[0]` no mode gives index 8 (40_palette_quantizer.md R126, R128). -/
theorem resolve_ne_eight {cfg : Config} (h : cfg.palAt 8 = cfg.palAt 0) (m : IndexMode) (c : Rgb) :
    resolve m cfg c ≠ 8 := by
  cases m with
  | nearest => exact quantizeNeverEight cfg c h
  | exact => exact exactLookup_ne_eight h c

/-- Settles O31: a transparent pixel gives the sentinel, any other its index, which is below 16 and not 8. -/
theorem spriteByteValues : Obligations.SpriteByteValues := by
  intro m cfg p h08
  by_cases halpha : p.a.toNat < 128
  · rw [spritePixel_of_transparent halpha]
    exact ⟨iff_of_true rfl halpha, .inl rfl, by decide⟩
  · rw [spritePixel_of_opaque halpha]
    have hbyte : ((resolve m cfg p.rgb).setWidth 8 : Byte).toNat = (resolve m cfg p.rgb).toNat :=
      BitVec.toNat_setWidth_of_le (by decide)
    have hlt : ((resolve m cfg p.rgb).setWidth 8 : Byte).toNat < 16 := hbyte ▸ (resolve m cfg p.rgb).isLt
    refine ⟨iff_of_false (fun hE3 => ?_) halpha, .inr hlt, fun h8 => ?_⟩
    · rw [hE3] at hlt
      exact absurd hlt (by decide)
    · rw [h8] at hbyte
      exact resolve_ne_eight h08 m p.rgb (BitVec.eq_of_toNat_eq hbyte.symm)

/-! The bytes of one block (42_sprite.md R170, R172). -/

/-- R170: byte `16y + x` of a sprite is that of its pixel at column `x`, row `y`. -/
theorem spriteBlock_getElem? (m : IndexMode) (s : State) (x0 y0 : Nat) {y x : Nat} (hy : y < 16) (hx : x < 16) :
    (spriteBlock m s x0 y0)[16 * y + x]? = some (spritePixel m s.cfg (s.pixel (x0 + x) (y0 + y))) := by
  rw [Nat.mul_comm]
  exact rowMajor_getElem? _ hx hy

/-- The index of a colour depends on the palette alone (40_palette_quantizer.md R124, R128). -/
theorem resolve_hwb (m : IndexMode) (cfg : Config) (hwb : Vector Byte 16) :
    resolve m { cfg with hwb := hwb } = resolve m cfg := by
  cases m <;> rfl

theorem spritePixel_hwb (m : IndexMode) (cfg : Config) (p : Pixel) (hwb : Vector Byte 16) :
    spritePixel m { cfg with hwb := hwb } p = spritePixel m cfg p := by
  rw [spritePixel_eq, spritePixel_eq, resolve_hwb]

/-- Settles O30: a sprite is the bytes of its pixels row by row, and these take only an index from the configuration. -/
theorem spriteBlockLayout : Obligations.SpriteBlockLayout := by
  refine ⟨fun m index s x0 y0 hindex => ⟨spriteBlock_length m s x0 y0, fun y x hy hx => ?_⟩, fun m s x0 y0 hwb => ?_⟩
  · obtain ⟨hresolve, -⟩ := tileBlockLayout m index s x0 y0 hindex
    rw [spriteBlock_getElem? m s x0 y0 hy hx, spritePixel_eq, hresolve]
  · exact rowMajor_congr fun x y _ _ => spritePixel_hwb m s.cfg (s.pixel (x0 + x) (y0 + y)) hwb

/-! ENC.S with a valid raster (42_sprite.md R174, R176, R177). -/

/-- Settles O32: ENC.S is a grid encoder of 16 by 16 blocks whose checks pass. -/
theorem encodeSpritesResult : Obligations.EncodeSpritesResult := by
  intro m s hrv hw hw' hh hh'
  refine ⟨gridUnits 16 (s.rw.toNat / 16) (s.rh.toNat / 16) (spriteBlock m s), ?_, ?_,
    fun sc sr hc hr => gridUnits_getElem? (spriteBlock m s) hc hr⟩
  · rw [exec_spriteCommand]
    exact encodeGrid_of_check (encodeCheck_of_range hrv hw hw' hh hh') _ _ _ _
  · rw [gridUnits_length, Nat.mul_comm]

end Sys2Proof.Machine
end

section
/-! PROOFS. The family of 43_bitmap.md: the values of a bitmap byte, what ENC.B does with a valid raster, and that
ENC.B TRUNC reads no configuration. -/

namespace Sys2Proof.Machine

open Sys2Proof

/-! The byte of one pixel (43_bitmap.md R191, R192). -/

/-- The colour whose channels hold the fields of an RGB332 byte in their top bits, zeros below (R130). -/
def colourOf332 (v : Byte) : Rgb :=
  ⟨v.extractLsb' 5 3 ++ 0#5, v.extractLsb' 2 3 ++ 0#5, v.extractLsb' 0 2 ++ 0#6⟩

/-- `Trunc332` is onto: it takes the fields of the byte back from the channels' top bits. -/
theorem trunc332_colourOf332 (v : Byte) : trunc332 (colourOf332 v) = v := by
  have hr : (colourOf332 v).r.extractLsb' 5 3 = v.extractLsb' 5 3 := BitVec.extractLsb'_append_eq_left
  have hg : (colourOf332 v).g.extractLsb' 5 3 = v.extractLsb' 2 3 := BitVec.extractLsb'_append_eq_left
  have hb : (colourOf332 v).b.extractLsb' 6 2 = v.extractLsb' 0 2 := BitVec.extractLsb'_append_eq_left
  rw [trunc332_eq_append, hr, hg, hb, BitVec.extractLsb'_append_extractLsb'_eq_extractLsb' (by rfl : 5 = 2 + 3),
    BitVec.extractLsb'_append_extractLsb'_eq_extractLsb' (by rfl : 2 = 0 + 2), BitVec.extractLsb'_eq_self]

/-- Settles O34: the index modes never give index 8, and every byte is the truncation of a colour. -/
theorem bitmapByteValues : Obligations.BitmapByteValues :=
  ⟨fun _ _ => ⟨rfl, rfl, rfl⟩,
    fun cfg c h08 =>
      ⟨⟨quantize cfg c, quantizeNeverEight cfg c h08, rfl⟩, ⟨exactLookup cfg c, exactLookup_ne_eight h08 c, rfl⟩⟩,
    fun _ v => ⟨colourOf332 v, trunc332_colourOf332 v⟩⟩

/-! ENC.B with a valid raster (43_bitmap.md R193 to R196). -/

/-- R193: byte `y·RW + x` of the bitmap is that of the pixel at column `x`, row `y`. -/
theorem bitmapBytes_getElem? (m : ColourMode) (s : State) {x y : Nat} (hx : x < s.rw.toNat) (hy : y < s.rh.toNat) :
    (bitmapBytes m s)[y * s.rw.toNat + x]? = some (bitmapByte m s.cfg (s.pixel x y).rgb) :=
  rowMajor_getElem? _ hx hy

/-- The serializer whose checks pass: the bitmap in FLAT, UNITS and TXT dropped, `pc` one further. -/
theorem encodeBitmap_of_check {s : State} (hcheck : s.encodeCheck = .none) (i : Instr) (m : ColourMode) :
    encodeBitmap i m s = .next { s with
      flat := bitmapBytes m s, fv := true, units := [], uv := false, ukind := .tiles, gcols := 0, grows := 0,
      txt := [], tv := false, pc := s.pc + 1 } := by
  rw [encodeBitmap, hcheck]
  rfl

/-- Settles O33: ENC.B is the serializer, and its checks pass. -/
theorem encodeBitmapResult : Obligations.EncodeBitmapResult := by
  intro m s hrv hw hw' hh hh'
  refine ⟨bitmapBytes m s, ?_, bitmapBytes_length m s, fun x y hx hy => bitmapBytes_getElem? m s hx hy⟩
  rw [exec_bitmapCommand]
  exact encodeBitmap_of_check (encodeCheck_of_range hrv hw hw' hh hh') _ m

/-! ENC.B TRUNC over another configuration (43_bitmap.md R196). -/

section
variable {i : Instr} {s t : State} (cfg : Config)

/-- A change of the state that fault entry neither makes nor reads (60_exceptions.md R291) passes through a checked
command: it may be made before the command or after it. -/
theorem checked_map {c : FaultCode} {u : State} (f : State → State) (hf : ∀ c w, f (s.raise c w) = (f s).raise c w)
    (h : checked c i s t = .next u) : checked c i (f s) (f t) = .next (f u) := by
  rcases checked_cases h with ⟨rfl, rfl⟩ | ⟨hc, rfl⟩
  · exact checked_none i _ _
  · rw [hf]
    exact checked_fault hc i _ _

/-- `Trunc332` reads the pixels alone. -/
theorem bitmapBytes_trunc_cfg (s : State) : bitmapBytes .trunc { s with cfg := cfg } = bitmapBytes .trunc s :=
  rowMajor_congr fun _ _ _ _ => rfl

theorem encodeBitmap_trunc_cfg (h : encodeBitmap i .trunc s = .next t) :
    encodeBitmap i .trunc { s with cfg := cfg } = .next { t with cfg := cfg } := by
  simp only [encodeBitmap, bitmapBytes_trunc_cfg]
  exact checked_map (fun s => { s with cfg := cfg }) (fun _ _ => rfl) h

end

/-- Settles O35: neither the checks nor the truncated bytes read the configuration. -/
theorem truncBitmapIgnoresConfiguration : Obligations.TruncBitmapIgnoresConfiguration := by
  intro s t cfg h
  have hexec (s : State) : exec .encBTrunc s = encodeBitmap .encBTrunc .trunc s := exec_bitmapCommand .trunc s
  rw [hexec] at h ⊢
  exact encodeBitmap_trunc_cfg cfg h

end Sys2Proof.Machine
end

section
/-! PROOFS. The family of 44_partition.md: the chunks of an array, and what BANK and PAGE do with a bitmap and without. -/

namespace Sys2Proof.Machine

open Sys2Proof

/-! The chunks of an array (44_partition.md R211, R212). -/

/-- The unit at index `k` of a partition is chunk `k`, numbered `base + k`. -/
theorem eq_of_split_getElem? {f : List Byte} {ps base k : Nat} {u : EncUnit} (h : (split f ps base)[k]? = some u) :
    k < ceilDiv f.length ps ∧ u = ⟨BitVec.ofNat 16 (base + k), chunk f ps k⟩ := by
  have hk : k < ceilDiv f.length ps := by simpa using (List.getElem?_eq_some_iff.1 h).1
  rw [split_getElem? base hk] at h
  exact ⟨hk, (Option.some.inj h).symm⟩

/-- Only the end of the array cuts a chunk short. -/
theorem split_bytes_length {f : List Byte} {ps base k : Nat} {u : EncUnit} (hps : 0 < ps)
    (h : (split f ps base)[k]? = some u) : u.bytes.length = min ps (f.length - k * ps) := by
  obtain ⟨hk, rfl⟩ := eq_of_split_getElem? h
  exact chunk_length hk hps

/-- What the last of `n + 1` chunks holds: the remainder, or a whole chunk when there is none. -/
theorem sub_mul_eq_mod_or_self {l n ps : Nat} (hlo : n * ps < l) (hhi : l ≤ (n + 1) * ps) :
    l - n * ps = if l % ps = 0 then ps else l % ps := by
  obtain ⟨r, rfl⟩ := Nat.exists_eq_add_of_le hlo.le
  rw [Nat.succ_mul] at hhi
  rw [Nat.add_sub_cancel_left, Nat.mul_add_mod']
  rcases Nat.lt_or_eq_of_le (Nat.le_of_add_le_add_left hhi) with hr | rfl
  · rw [Nat.mod_eq_of_lt hr, if_neg (by omega)]
  · rw [Nat.mod_self, if_pos rfl]

/-- Settles O37: of `n + 1` chunks the first `n` end before the array does, and the last holds the rest. -/
theorem splitChunks : Obligations.SplitChunks := by
  refine ⟨fun ps base hps => by simp [split, ceilDiv_eq_zero hps], fun f ps base hf hps => ?_⟩
  obtain ⟨n, hn⟩ : ∃ n, ceilDiv f.length ps = n + 1 :=
    Nat.exists_eq_add_one.2 ((lt_ceilDiv_iff hps).2 (by omega))
  have hlo : n * ps < f.length := (lt_ceilDiv_iff hps).1 (by omega)
  have hhi : f.length ≤ (n + 1) * ps := hn ▸ le_ceilDiv_mul f.length hps
  refine ⟨n + 1, by rw [split_length, hn], by omega, hlo, hhi, fun k u hk hu => ?_, fun u hu => ?_,
    split_flatMap_bytes f base hps, fun k hk => ⟨_, split_getElem? base (hn ▸ hk), rfl, fun hnum => ?_⟩⟩
  · have hfull : (k + 1) * ps ≤ n * ps := Nat.mul_le_mul_right ps (by omega)
    rw [Nat.succ_mul] at hfull
    rw [split_bytes_length hps hu]
    omega
  · have hlen : u.bytes.length = f.length - n * ps := by
      rw [split_bytes_length hps hu, Nat.add_sub_cancel, Nat.min_eq_right (Nat.sub_le_of_le_add ?_)]
      rwa [Nat.add_comm, ← Nat.succ_mul]
    exact ⟨hlen, hlen.trans (sub_mul_eq_mod_or_self hlo hhi), List.ne_nil_of_length_pos (by omega)⟩
  · rw [BitVec.toNat_ofNat, Nat.mod_eq_of_lt hnum]

/-! The checks of a partition command (44_partition.md R215). -/

theorem partitionCheck_sequenceViolation_iff (s : State) :
    s.partitionCheck = .sequenceViolation ↔ s.fv = false := by
  rcases partitionCheck_cases s with h | h | h <;> simp [h]

theorem partitionCheck_dimensionConstraintViolation_iff (s : State) :
    s.partitionCheck = .dimensionConstraintViolation ↔ s.fv = true ∧ s.rh.toNat ≠ 192 := by
  rcases partitionCheck_cases s with h | h | h <;> simp [h]

/-- BANK and PAGE are both partitions. -/
theorem exec_eq_partition {i : Instr} (hi : i.isPartition = true) (s : State) :
    ∃ kind ps base, exec i s = partition i kind ps base s := by
  cases i with
  | bank => exact ⟨.banks, 8192, 0, rfl⟩
  | page base size => exact ⟨.pages, pageSize size, base.toNat, rfl⟩
  | endCmd | qnt | xlt | t332 | hwb | encTNearest | encTExact | encSNearest | encSExact | encBNearest | encBExact
  | encBTrunc | emitH | emitA => simp [Instr.isPartition] at hi

/-- A partition command whose checks fail raises their fault with its word. -/
theorem exec_partition_of_fault {i : Instr} {s : State} {c : FaultCode} (hi : i.isPartition = true)
    (hcheck : s.partitionCheck = c) (hc : c ≠ .none) : exec i s = .next (s.raise c (encode i)) := by
  obtain ⟨kind, ps, base, hexec⟩ := exec_eq_partition hi s
  rw [hexec, partition, hcheck]
  exact checked_fault hc i s _

/-- Settles O17: the missing bitmap is looked at first, the height only with one. -/
theorem partitionFaults : Obligations.PartitionFaults :=
  fun _ s hi =>
    ⟨fun hfv => exec_partition_of_fault hi ((partitionCheck_sequenceViolation_iff s).2 hfv) (by decide),
      fun hfv hrh =>
        exec_partition_of_fault hi ((partitionCheck_dimensionConstraintViolation_iff s).2 ⟨hfv, hrh⟩) (by decide)⟩

/-! BANK and PAGE with a bitmap of full height (44_partition.md R213, R214, R216). -/

/-- A partition whose checks pass: the chunks of FLAT in one column, TXT dropped, `pc` one further. -/
theorem partition_of_check {s : State} (hcheck : s.partitionCheck = .none) (i : Instr) (kind : UnitKind)
    (ps base : Nat) :
    partition i kind ps base s = .next { s with
      units := split s.flat ps base, uv := true, ukind := kind, gcols := 1,
      grows := BitVec.ofNat 16 (split s.flat ps base).length, txt := [], tv := false, pc := s.pc + 1 } := by
  rw [partition, hcheck]
  rfl

/-- Settles O38: BANK is the partition of FLAT by 8192 from 0, and its checks pass. -/
theorem bankResult : Obligations.BankResult := by
  intro s hfv hrh
  have hcheck := (partitionCheck_none_iff s).2 ⟨hfv, hrh⟩
  refine ⟨split s.flat 8192 0, partition_of_check hcheck .bank .banks 8192 0, split_flatMap_bytes s.flat 0 (by decide),
    split_length s.flat 8192 0, fun k b hb => ⟨?_, split_bytes_length (by decide) hb⟩⟩
  obtain ⟨-, rfl⟩ := eq_of_split_getElem? hb
  rw [Nat.zero_add]

/-- Settles O39: PAGE is the partition of FLAT by the effective size from `base`, and a base of at most 255 with at most
49152 pages does not wrap. -/
theorem pageResult : Obligations.PageResult := by
  intro s base size hfv hrh
  have hcheck := (partitionCheck_none_iff s).2 ⟨hfv, hrh⟩
  have hps := pageSize_pos size
  refine ⟨split s.flat (pageSize size) base.toNat, pageSize size, rfl,
    partition_of_check hcheck (.page base size) .pages (pageSize size) base.toNat,
    split_flatMap_bytes s.flat base.toNat hps, split_length s.flat (pageSize size) base.toNat,
    fun k b hb => split_bytes_length hps hb, fun hflat k b hb => ?_⟩
  have hbase := base.isLt
  have hnum : b.num.toNat = base.toNat + k := split_num hps (by omega) hb
  obtain ⟨hk, -⟩ := eq_of_split_getElem? hb
  have hcount := ceilDiv_le_self s.flat.length hps
  exact ⟨hnum, by omega⟩

/-- BANK cuts a bitmap of 49152 bytes without a rest (44_partition.md R214). -/
theorem bank_of_canonical_flat {s : State} (hfv : s.fv = true) (hrh : s.rh.toNat = 192)
    (hflat : s.flat.length = 49152) :
    ∃ t, exec .bank s = .next t ∧ t.units.length = 6 ∧ ∀ b ∈ t.units, b.bytes.length = 8192 := by
  obtain ⟨u, hexec, -, hcount, hunits⟩ := bankResult s hfv hrh
  rw [hflat] at hcount
  refine ⟨_, hexec, hcount, fun b hb => ?_⟩
  obtain ⟨k, hk⟩ := List.mem_iff_getElem?.1 hb
  have hlt : k < u.length := (List.getElem?_eq_some_iff.1 hk).1
  obtain ⟨-, hbytes⟩ := hunits k b hk
  rw [hbytes, hflat]
  omega

/-- Settles O40: ENC.B leaves 256 · 192 = 6 · 8192 bytes with FV set. -/
theorem canonicalBitmapSixBanks : Obligations.CanonicalBitmapSixBanks := by
  intro m s hrv hrw hrh
  obtain ⟨f, henc, hlen, -⟩ := encodeBitmapResult m s hrv (by omega) (by omega) (by omega) (by omega)
  have hflat : f.length = 49152 := by rw [hlen, hrw, hrh]
  exact ⟨_, exists_and_left.2 ⟨henc, bank_of_canonical_flat rfl hrh hflat⟩⟩

end Sys2Proof.Machine
end

section
/-! PROOFS. The family of 45_declaration.md: digits, identifiers, the lines of an array, the texts EMIT.H and EMIT.A
write, and how many lines a text has. -/

namespace Sys2Proof.Machine

open Sys2Proof

/-! Hexadecimal digits (45_declaration.md R233). -/

/-- The digits in order, `0` to `9` and then `A` to `F`. -/
theorem hexDigit_eq_getD : ∀ d < 16, hexDigit d = (ascii "0123456789ABCDEF").getD d 0 := by decide

/-- Settles O42: both halves of a byte are below 16. -/
theorem hexDigits : Obligations.HexDigits := by
  intro v
  have hv : v.toNat < 256 := v.isLt
  rw [hex2, hexDigit_eq_getD _ (by omega), hexDigit_eq_getD _ (by omega)]

/-! Decimal numerals (45_declaration.md R231). -/

theorem toNat_digit {d : Nat} (h : d < 10) : (BitVec.ofNat 8 (48 + d)).toNat = 48 + d := by
  rw [BitVec.toNat_ofNat]
  omega

/-- Any fuel above the number gives its numeral. -/
theorem decDigits_eq_of_lt : ∀ {f g n : Nat}, n < f → n < g → decDigits f n = decDigits g n
  | f + 1, g + 1, n, hf, hg => by
    unfold decDigits
    split
    · rfl
    · rw [decDigits_eq_of_lt (f := f) (g := g) (by omega) (by omega)]

theorem dec_of_lt {n : Nat} (h : n < 10) : dec n = [BitVec.ofNat 8 (48 + n)] := by
  rw [dec, decDigits, if_pos h]

theorem dec_of_ge {n : Nat} (h : 10 ≤ n) : dec n = dec (n / 10) ++ [BitVec.ofNat 8 (48 + n % 10)] := by
  rw [dec, decDigits, if_neg (by omega), decDigits_eq_of_lt (g := n / 10 + 1) (by omega) (by omega), dec]

/-- Numerals of one digit, and from a numeral to one with a digit more. -/
theorem decimal_induction {P : Nat → Prop} (digit : ∀ n < 10, P n) (append : ∀ n, 10 ≤ n → P (n / 10) → P n)
    (n : Nat) : P n := by
  induction n using Nat.strong_induction_on with
  | h n ih =>
    rcases Nat.lt_or_ge n 10 with h | h
    · exact digit n h
    · exact append n h (ih (n / 10) (by omega))

theorem dec_ne_nil (n : Nat) : dec n ≠ [] := by
  rcases Nat.lt_or_ge n 10 with h | h
  · simp [dec_of_lt h]
  · simp [dec_of_ge h]

/-- The number a row of digits means in base ten. -/
def decValue (l : List Byte) : Nat := l.foldl (fun a d => 10 * a + (d.toNat - 48)) 0

theorem decValue_append_digit (l : List Byte) {d : Nat} (h : d < 10) :
    decValue (l ++ [BitVec.ofNat 8 (48 + d)]) = 10 * decValue l + d := by
  simp only [decValue, List.foldl_append, List.foldl_cons, List.foldl_nil, toNat_digit h, Nat.add_sub_cancel_left]

theorem decValue_dec (n : Nat) : decValue (dec n) = n := by
  induction n using decimal_induction with
  | digit n h => rw [dec_of_lt h]; exact (decValue_append_digit [] h).trans (Nat.zero_add n)
  | append n h ih => rw [dec_of_ge h, decValue_append_digit _ (Nat.mod_lt n (by decide)), ih, Nat.div_add_mod]

/-- `Dec` is injective (R232). -/
theorem dec_injective : Function.Injective dec :=
  Function.LeftInverse.injective decValue_dec

theorem dec_head?_ne_zero (n : Nat) (hn : 0 < n) : (dec n).head? ≠ some 48 := by
  induction n using decimal_induction with
  | digit n h =>
    rw [dec_of_lt h, List.head?_cons]
    intro h0
    have hzero : (BitVec.ofNat 8 (48 + n)).toNat = 48 := congrArg BitVec.toNat (Option.some.inj h0)
    rw [toNat_digit h] at hzero
    omega
  | append n h ih =>
    rw [dec_of_ge h, List.head?_append_of_ne_nil _ (dec_ne_nil _)]
    exact ih (by omega)

/-- Settles O41: each clause by induction on the number of digits. -/
theorem decimalNumeral : Obligations.DecimalNumeral :=
  ⟨rfl, fun n => ⟨dec_ne_nil n, decDigits_digits (n + 1) n, decValue_dec n, dec_head?_ne_zero n⟩⟩

/-! Identifiers (45_declaration.md R232, R235). -/

theorem isLower_iff (v : Byte) : isLower v = true ↔ 97 ≤ v.toNat ∧ v.toNat ≤ 122 := by
  simp [isLower]

theorem upperByte_eq (v : Byte) : upperByte v = if 97 ≤ v.toNat ∧ v.toNat ≤ 122 then v - 32 else v := by
  simp only [upperByte, isLower_iff]

/-- A label keeps its number: NAME and the kind word stand before every number alike, and `Dec` is injective. -/
theorem label_injective (name : List Byte) (kind : UnitKind) : Function.Injective (label name kind) :=
  fun _ _ h => BitVec.eq_of_toNat_eq (dec_injective (List.append_cancel_left h))

/-- Settles O43: all but the last clause restates the definitions in bytes. -/
theorem identifiersAndLabels : Obligations.IdentifiersAndLabels :=
  ⟨fun _ => List.map_congr_left fun v _ => upperByte_eq v, rfl, rfl, rfl, rfl, fun _ _ _ => ⟨rfl, rfl⟩,
    fun name kind _ _ h => label_injective name kind h⟩

/-! The lines of an array (45_declaration.md R234, R237). -/

section
variable {b c : List Byte} {n i : Nat} (hn : 0 < n)
include hn

theorem textLines_flatten (b : List Byte) : (textLines b n).flatten = b := by
  rw [textLines, ← List.flatMap_def]
  exact flatMap_all_chunks b hn

theorem textLines_nil : textLines [] n = [] := by
  simp [textLines, ceilDiv_eq_zero hn]

/-- Only the end of the array cuts a line short. -/
theorem textLines_line_length (h : (textLines b n)[i]? = some c) : c.length = min n (b.length - i * n) := by
  obtain ⟨hi, rfl⟩ := textLines_getElem? h
  exact chunk_length hi hn

theorem textLines_full_line (hi : i + 1 < (textLines b n).length) (h : (textLines b n)[i]? = some c) :
    c.length = n := by
  rw [textLines_length, lt_ceilDiv_iff hn, Nat.succ_mul] at hi
  rw [textLines_line_length hn h]
  omega

theorem textLines_last_line (hrest : b.length % n ≠ 0) (h : (textLines b n).getLast? = some c) :
    c.length = b.length % n := by
  rw [List.getLast?_eq_getElem?, textLines_length] at h
  obtain ⟨hi, -⟩ := textLines_getElem? h
  have hlo := (lt_ceilDiv_iff hn).1 hi
  have hhi := le_ceilDiv_mul b.length hn
  rw [← Nat.sub_add_cancel (Nat.one_le_of_lt hi)] at hhi
  have hsub := sub_mul_eq_mod_or_self hlo hhi
  rw [if_neg hrest] at hsub
  rw [textLines_line_length hn h, hsub]
  exact Nat.min_eq_right (Nat.mod_lt _ hn).le

end

/-- Settles O44: the chunks of R211 again, cut every 8 or 16 bytes. -/
theorem textLinesAreChunks : Obligations.TextLines := by
  refine ⟨fun b n h => ?_, fun k => by cases k <;> rfl⟩
  have hn : 0 < n := by omega
  exact ⟨textLines_flatten hn b, textLines_length b n, fun hb => hb ▸ textLines_nil hn,
    fun i c hc => (textLines_getElem? hc).2, fun i c => textLines_full_line hn,
    fun hrest c => textLines_last_line hn hrest⟩

/-! The two commands with their checks passed (45_declaration.md R245, R251). -/

theorem exec_emitH_of_uv {s : State} (huv : s.uv = true) :
    exec .emitH s = .next { s with
      txt := headerText s.cfg.name s.ukind s.rw.toNat s.rh.toNat s.units, tv := true, pc := s.pc + 1 } := by
  have hexec : exec .emitH s = execEmitH s := rfl
  rw [hexec, execEmitH, (emitHCheck_none_iff s).2 huv]
  rfl

theorem exec_emitA_of_pages {s : State} (huv : s.uv = true) (hkind : s.ukind = .pages) :
    exec .emitA s = .next { s with txt := asmText s.cfg.name s.units, tv := true, pc := s.pc + 1 } := by
  have hexec : exec .emitA s = execEmitA s := rfl
  rw [hexec, execEmitA, (emitACheck_none_iff s).2 ⟨huv, hkind⟩]
  rfl

/-! The texts spelled out (45_declaration.md R240, R250). -/

theorem commaLines_eq_flatMap (l : List (List Byte)) :
    commaLines l = l.zipIdx.flatMap fun x =>
      ascii "    " ++ x.1 ++ (if x.2 + 1 < l.length then ascii "," else []) ++ eol :=
  commaLines_eq_flatMap_zipIdx l (Nat.zero_add _)

theorem lpl_eq (kind : UnitKind) : lpl kind = if kind = .tiles then 8 else 16 := by
  cases kind <;> rfl

/-- R240(c): only for banks and pages. -/
theorem unitMacros_eq (name : List Byte) (kind : UnitKind) (units : List EncUnit) :
    unitMacros name kind units = if kind = .banks ∨ kind = .pages then
      units.flatMap fun u => sizeMacro (upper (label name kind u.num)) (ascii "_SIZE ") u.bytes.length else [] := by
  cases kind <;> rfl

/-- R240(e), its lines numbered. -/
theorem unitArray_eq (name : List Byte) (kind : UnitKind) (u : EncUnit) :
    unitArray name kind u =
      let lines := (textLines u.bytes (if kind = .tiles then 8 else 16)).map (literals (ascii "0x"))
      ascii "const unsigned char " ++ label name kind u.num ++ ascii "[" ++ dec u.bytes.length ++ openArray ++
        (lines.zipIdx.flatMap fun x =>
          ascii "    " ++ x.1 ++ (if x.2 + 1 < lines.length then ascii "," else []) ++ eol) ++ closeArray := by
  rw [unitArray, commaLines_eq_flatMap, lpl_eq]

/-- Settles O45: the checks pass, and the model's texts are the rules' once lines are numbered, the line width and part
(c) are written by kind, and appends are nested alike. -/
theorem emitCommands : Obligations.EmitCommands := by
  refine ⟨fun s huv => ?_, fun s huv hkind => ?_⟩
  · intro nl u kw lab per row lines text
    have htext : headerText s.cfg.name s.ukind s.rw.toNat s.rh.toNat s.units = text := by
      simp only [text, lines, row, per, lab, kw, u, nl, headerText, guardOpen, sizeMacros, unitMacros_eq, sizeMacro,
        totalBytes, funext (unitArray_eq _ _), lookupTable, label, tableName, openArray, closeArray,
        commaLines_eq_flatMap, eol, List.append_assoc]
      rfl
    rw [exec_emitH_of_uv huv, htext]
  · intro nl lab text
    have htext : asmText s.cfg.name s.units = text := by
      refine List.flatMap_congr fun e _ => ?_
      simp only [lab, nl, asmSection, label, kindWord, eol, List.append_assoc]
      rfl
    rw [exec_emitA_of_pages huv hkind, htext]

/-- Settles O46: without units the parts (c) and (e) and the table's entries are empty, and the literals between the
names and numbers meet. -/
theorem headerTextOfZeroUnits : Obligations.HeaderTextOfZeroUnits := by
  intro s huv hunits hkind u text
  have htext : headerText s.cfg.name s.ukind s.rw.toNat s.rh.toNat s.units = text := by
    simp only [text, u, hunits, headerText, guardOpen, sizeMacros, sizeMacro, lookupTable, tableName, List.append_assoc]
    rcases hkind with hkind | hkind
    · rw [hkind]
      rfl
    · rw [hkind]
      rfl
  rw [exec_emitH_of_uv huv, htext]

/-! How many lines a text has (45_declaration.md R240, R250). -/

/-- How many lines end in a text: each ends with the single byte 0x0A (R240). -/
def lineEnds (l : List Byte) : Nat := l.count 0x0A

@[simp] theorem lineEnds_nil : lineEnds [] = 0 := rfl

@[simp] theorem lineEnds_eol : lineEnds eol = 1 := rfl

@[simp] theorem lineEnds_append (a b : List Byte) : lineEnds (a ++ b) = lineEnds a + lineEnds b :=
  List.count_append

theorem lineEnds_flatMap {α : Type} (l : List α) (f : α → List Byte) :
    lineEnds (l.flatMap f) = (l.map fun x => lineEnds (f x)).sum :=
  List.count_flatMap

theorem lineEnds_eq_zero {l : List Byte} (h : ∀ v ∈ l, v ≠ 0x0A) : lineEnds l = 0 :=
  List.count_eq_zero.2 fun hmem => h _ hmem rfl

/-- A byte from `0` on is no line end. -/
theorem ne_eol_of_le {v : Byte} (h : 48 ≤ v.toNat) : v ≠ 0x0A := by
  rintro rfl
  exact absurd h (by decide)

/-- A string literal without a line end. -/
theorem lineEnds_ascii {t : String} (h : (ascii t).all (· != 0x0A) = true) : lineEnds (ascii t) = 0 :=
  lineEnds_eq_zero fun v hv => bne_iff_ne.1 (List.all_eq_true.1 h v hv)

@[simp] theorem lineEnds_dec (n : Nat) : lineEnds (dec n) = 0 :=
  lineEnds_eq_zero fun d hd => ne_eol_of_le (decDigits_digits (n + 1) n d hd).1

@[simp] theorem lineEnds_kindWord (kind : UnitKind) : lineEnds (kindWord kind) = 0 := by
  cases kind <;> rfl

@[simp] theorem lineEnds_openArray : lineEnds openArray = 1 := rfl

@[simp] theorem lineEnds_closeArray : lineEnds closeArray = 2 := rfl

/-- `Upper` neither makes nor removes a line end. -/
theorem upperByte_eq_eol_iff (v : Byte) : upperByte v = 0x0A ↔ v = 0x0A := by
  rw [upperByte_eq]
  split <;> bv_omega

@[simp] theorem lineEnds_upper (l : List Byte) : lineEnds (upper l) = lineEnds l := by
  simp only [lineEnds, upper, List.count, List.countP_map]
  exact List.countP_congr fun v _ => by simpa using upperByte_eq_eol_iff v

theorem lineEnds_literals {pre : List Byte} (hpre : ∀ v ∈ pre, v ≠ 0x0A) (c : List Byte) :
    lineEnds (literals pre c) = 0 :=
  lineEnds_eq_zero (forall_mem_literals (by decide) hpre (fun _ hlo _ => ne_eol_of_le hlo) c)

/-- Each item is a line of its own. -/
theorem lineEnds_commaLines : ∀ {l : List (List Byte)}, (∀ x ∈ l, lineEnds x = 0) →
    lineEnds (commaLines l) = l.length
  | [], _ => rfl
  | [x], h => by
    have hx := h x List.mem_cons_self
    simp (disch := decide) [commaLines, lineEnds_ascii, hx]
  | x :: y :: xs, h => by
    have hx := h x List.mem_cons_self
    have ih := lineEnds_commaLines (l := y :: xs) fun z hz => h z (List.mem_cons_of_mem x hz)
    simp (disch := decide) [commaLines, lineEnds_ascii, hx, ih, Nat.add_comm]

@[simp] theorem lineEnds_label (name : List Byte) (kind : UnitKind) (num : BitVec 16) :
    lineEnds (label name kind num) = lineEnds name := by
  simp (disch := decide) [label, lineEnds_ascii]

@[simp] theorem lineEnds_sizeMacro (u m : List Byte) (n : Nat) :
    lineEnds (sizeMacro u m n) = lineEnds u + lineEnds m + 1 := by
  simp (disch := decide) [sizeMacro, lineEnds_ascii, Nat.add_assoc]

section
variable {name : List Byte} (hname : lineEnds name = 0)
include hname

theorem lineEnds_guardOpen : lineEnds (guardOpen name) = 3 := by
  simp (disch := decide) [guardOpen, lineEnds_ascii, hname]

theorem lineEnds_sizeMacros (rw rh : Nat) (units : List EncUnit) : lineEnds (sizeMacros name rw rh units) = 3 := by
  simp (disch := decide) [sizeMacros, lineEnds_ascii, hname]

theorem lineEnds_unitMacros (kind : UnitKind) (units : List EncUnit) :
    lineEnds (unitMacros name kind units) = if kind = .banks ∨ kind = .pages then units.length else 0 := by
  rw [unitMacros_eq]
  split
  · simp (disch := decide) [lineEnds_flatMap, lineEnds_ascii, hname]
  · rfl

theorem lineEnds_unitArray (kind : UnitKind) (u : EncUnit) :
    lineEnds (unitArray name kind u) = 3 + (u.bytes.length + lpl kind - 1) / lpl kind := by
  have hlines : lineEnds (commaLines ((textLines u.bytes (lpl kind)).map (literals (ascii "0x")))) =
      ceilDiv u.bytes.length (lpl kind) := by
    rw [lineEnds_commaLines, List.length_map, textLines_length]
    intro x hx
    obtain ⟨c, -, rfl⟩ := List.mem_map.1 hx
    exact lineEnds_literals (by decide) c
  simp +arith (disch := decide) [unitArray, lineEnds_ascii, hname, hlines, ceilDiv]

theorem lineEnds_lookupTable (kind : UnitKind) (units : List EncUnit) :
    lineEnds (lookupTable name kind units) = units.length + 3 := by
  have hentries : lineEnds (commaLines (units.map fun u => label name kind u.num)) = units.length := by
    rw [lineEnds_commaLines, List.length_map]
    intro x hx
    obtain ⟨u, -, rfl⟩ := List.mem_map.1 hx
    rw [lineEnds_label, hname]
  simp +arith (disch := decide) [lookupTable, tableName, lineEnds_ascii, hname, hentries]

theorem lineEnds_headerText (kind : UnitKind) (rw rh : Nat) (units : List EncUnit) :
    lineEnds (headerText name kind rw rh units) =
      7 + (if kind = .banks ∨ kind = .pages then units.length else 0) +
        (units.map fun u => 3 + (u.bytes.length + lpl kind - 1) / lpl kind).sum + (units.length + 4) := by
  simp (disch := decide) only [headerText, lineEnds_append, lineEnds_eol, lineEnds_ascii, lineEnds_flatMap,
    lineEnds_guardOpen hname, lineEnds_sizeMacros hname, lineEnds_unitMacros hname, lineEnds_unitArray hname,
    lineEnds_lookupTable hname]
  omega

theorem lineEnds_asmSection (u : EncUnit) : lineEnds (asmSection name u) = 5 + (u.bytes.length + 15) / 16 := by
  have hdefb (c : List Byte) : lineEnds (defbLine c) = 1 := by
    have hliterals : lineEnds (literals (ascii "$") c) = 0 := lineEnds_literals (by decide) c
    simp (disch := decide) [defbLine, lineEnds_ascii, hliterals]
  have hlines : lineEnds ((textLines u.bytes 16).flatMap defbLine) = (u.bytes.length + 15) / 16 := by
    simp [lineEnds_flatMap, hdefb, ceilDiv]
  simp +arith (disch := decide) [asmSection, lineEnds_ascii, hname, hlines]

theorem lineEnds_asmText (units : List EncUnit) :
    lineEnds (asmText name units) = (units.map fun u => 5 + (u.bytes.length + 15) / 16).sum := by
  simp only [asmText, lineEnds_flatMap, lineEnds_asmSection hname]

end

/-- A name has no line end (00_scope.md R12). -/
theorem lineEnds_name {cfg : Config} (h : cfg.NameAdmitted) : lineEnds cfg.name = 0 := by
  obtain ⟨-, -, hall⟩ := h
  refine lineEnds_eq_zero fun v hv => ?_
  rintro rfl
  exact absurd (List.all_eq_true.1 hall _ hv) (by decide)

/-- Settles O48: part by part of the two texts. -/
theorem textLineCounts : Obligations.TextLineCounts := by
  intro cfg units h
  have hname := lineEnds_name h
  exact ⟨fun kind rw rh => lineEnds_headerText hname kind rw rh units, lineEnds_asmText hname units⟩

end Sys2Proof.Machine
end

section
/-! PROOFS. The family of 46_control.md: what a step is while RUN = 1 and while RUN = 0, that every command answers, and
END. -/

namespace Sys2Proof.Machine

open Sys2Proof

/-! The two kinds of step (46_control.md R271). -/

/-- While RUN = 1 a fetched word that is a command is executed. -/
theorem step_of_decode {s : State} {i : Instr} (hr : s.run = true) (h : decode s.fetch = some i) :
    step s = exec i s := by
  simp only [step, hr, if_true, h]

theorem step_of_idle {s : State} (hr : s.run = false) : step s = hostTurn s := by
  simp only [step, hr, Bool.false_eq_true, if_false]

/-- Settles O6: below 256 the fetched word is `CMD[pc]`; at 256 or above it is an illegal word. -/
theorem stepRunsFetchedCommand : Obligations.StepRunsFetchedCommand := by
  refine ⟨fun s i hr hpc hi => step_of_decode hr ?_, fun s hr hpc => step_of_pc_ge hr hpc⟩
  rw [fetch_of_lt hpc, hi]

/-- Settles O7: the host's turn, without a pending move and with one. -/
theorem stepWithoutRunIsHostTurn : Obligations.StepWithoutRunIsHostTurn := by
  refine ⟨fun s hr hhost => ?_, fun s m rest hr hhost => ?_⟩
  all_goals
    rw [step_of_idle hr]
    simp only [hostTurn, hhost]

/-- Settles O8: a command without a check answers its writes, a checked one its writes or its fault. -/
theorem everyCommandAnswersNext : Obligations.EveryCommandAnswersNext := exec_next

/-! END (46_control.md R273). -/

theorem exec_endCmd (s : State) : exec .endCmd s = .next s.finish := rfl

/-- The word 0 is the only word of END. -/
theorem decode_eq_endCmd_iff (w : Word) : decode w = some .endCmd ↔ w = 0 := by
  constructor
  · intro h
    exact (encode_of_decode h).symm
  · rintro rfl
    exact decode_encode .endCmd

/-- A unit that finishes with no fault ended well (10_state.md R43). -/
theorem endedWell_finish {s : State} (h : s.fault = .none) : s.finish.EndedWell := by
  simp [State.EndedWell, State.condition, h]

/-- Settles O13: the word fetched from a CMD of zeros is END's, and END finishes where it stands. -/
theorem endCommand : Obligations.EndCommand := by
  refine ⟨exec_endCmd, (decode_eq_endCmd_iff 0).2 rfl, fun w => (decode_eq_endCmd_iff w).1,
    fun s t hr hpc hcmd hfault hstep => ?_⟩
  have hfetch : s.fetch = 0 := by
    rw [fetch_of_lt (by rw [hpc]; decide), hcmd]
    exact Memory.read_nil _
  rw [step_of_decode hr ((decode_eq_endCmd_iff _).2 hfetch), exec_endCmd] at hstep
  cases hstep
  exact ⟨endedWell_finish hfault, hpc⟩

end Sys2Proof.Machine
end

section
/-! PROOFS. The family of 60_exceptions.md: what a fault writes, which command raises which, and the checks of the
encode and the emit commands. -/

namespace Sys2Proof.Machine

open Sys2Proof

/-! Fault entry (60_exceptions.md R281, R291). -/

/-- A command that leaves a fault where there was none has entered one of its own, with its word. -/
theorem exec_eq_raise_of_fault {i : Instr} {s t : State} (hnone : s.fault = .none) (h : exec i s = .next t)
    (hfault : t.fault ≠ .none) : t = s.raise t.fault (encode i) ∧ raisedBy t.fault (some i) = true := by
  cases exec_effect h with
  | raises c _ hby => exact ⟨rfl, hby⟩
  | ends | scalar | tiles | sprites | bitmap | banks | pages | header | assembler => exact absurd hnone hfault

/-- A running step that leaves a fault where there was none has entered it with the word fetched. -/
theorem step_eq_raise_of_fault {s t : State} (hr : s.run = true) (hnone : s.fault = .none) (h : step s = .next t)
    (hfault : t.fault ≠ .none) : t = s.raise t.fault s.fetch := by
  rcases step_cases h with ⟨-, i, hdecode, hexec⟩ | ⟨-, -, rfl⟩ | ⟨hidle, -⟩
  · rw [← encode_of_decode hdecode]
    exact (exec_eq_raise_of_fault hnone hexec hfault).1
  · rfl
  · rw [hr] at hidle
    cases hidle

/-- Fault entry leaves the unit FAULTED when DONE was 0 (10_state.md R43). -/
theorem condition_raise {s : State} {c : FaultCode} (hdone : s.done = false) (hc : c ≠ .none) (w : Word) :
    (s.raise c w).condition = some .faulted := by
  cases c with
  | none => exact absurd rfl hc
  | inputNotFound | dimensionConstraintViolation | illegalCommand | sequenceViolation =>
    simp [State.condition, hdone]

/-- Settles O14: the only effect of a command, and of a running step, that changes FAULT is fault entry. -/
theorem faultsArePrecise : Obligations.FaultsArePrecise := by
  refine ⟨fun i s t hnone hexec hfault => (exec_eq_raise_of_fault hnone hexec hfault).1,
    fun s t hr hdone hnone hstep hfault => ?_⟩
  have ht := step_eq_raise_of_fault hr hnone hstep hfault
  exact ⟨ht, ht ▸ condition_raise hdone hfault s.fetch⟩

/-- The "raised by" column of R281, row by row. -/
theorem raisedBy_some_iff (c : FaultCode) (i : Instr) : raisedBy c (some i) = true ↔
    (c = .inputNotFound ∧ i.isEncode = true) ∨
    (c = .dimensionConstraintViolation ∧ (i.isEncode = true ∨ i.isPartition = true)) ∨
    (c = .sequenceViolation ∧ (i.isPartition = true ∨ i.isEmit = true)) := by
  cases c <;> simp [raisedBy]

/-- Settles O15: a command enters only faults whose row of R281 names it. -/
theorem faultsByCommand : Obligations.FaultsByCommand :=
  fun i _ t hnone hexec hfault =>
    (raisedBy_some_iff t.fault i).1 (exec_eq_raise_of_fault hnone hexec hfault).2

/-! The checks of an encode command (60_exceptions.md R283, R284(a), R289). -/

theorem encodeCheck_inputNotFound_iff (s : State) : s.encodeCheck = .inputNotFound ↔ s.rv = false := by
  rcases encodeCheck_cases s with h | h | h <;> simp [h]

theorem encodeCheck_dimensionConstraintViolation_iff (s : State) :
    s.encodeCheck = .dimensionConstraintViolation ↔ s.rv = true ∧ s.dimsOk = false := by
  rcases encodeCheck_cases s with h | h | h <;> simp [h]

theorem dimsOk_eq_false_iff (s : State) : s.dimsOk = false ↔
    s.rw.toNat < 1 ∨ 256 < s.rw.toNat ∨ s.rh.toNat < 1 ∨ 192 < s.rh.toNat := by
  rw [← Bool.not_eq_true, dimsOk_iff]
  omega

/-- Every encode command makes the same checks, and its writes leave FAULT and RUN. -/
theorem exec_encode_eq_checked {i : Instr} (hi : i.isEncode = true) (s : State) :
    ∃ u, exec i s = checked s.encodeCheck i s u ∧ u.fault = s.fault ∧ u.run = s.run := by
  cases i with
  | encTNearest | encTExact | encSNearest | encSExact | encBNearest | encBExact | encBTrunc =>
    exact ⟨_, rfl, rfl, rfl⟩
  | endCmd | qnt | xlt | t332 | hwb | bank | page | emitH | emitA => simp [Instr.isEncode] at hi

/-- An encode command whose checks fail raises their fault with its word. -/
theorem exec_encode_of_fault {i : Instr} {s : State} {c : FaultCode} (hi : i.isEncode = true)
    (hcheck : s.encodeCheck = c) (hc : c ≠ .none) : exec i s = .next (s.raise c (encode i)) := by
  obtain ⟨u, hexec, -⟩ := exec_encode_eq_checked hi s
  rw [hexec, hcheck]
  exact checked_fault hc i s u

/-- Settles O16: the missing raster is looked at first, the dimensions only with one, and nothing else. -/
theorem encodeFaults : Obligations.EncodeFaults := by
  refine fun i s hi =>
    ⟨fun hrv => exec_encode_of_fault hi ((encodeCheck_inputNotFound_iff s).2 hrv) (by decide),
      fun hrv hdims => exec_encode_of_fault hi
        ((encodeCheck_dimensionConstraintViolation_iff s).2 ⟨hrv, (dimsOk_eq_false_iff s).2 hdims⟩) (by decide),
      fun hrv hw hw' hh hh' => ?_⟩
  obtain ⟨u, hexec, hfault, hrun⟩ := exec_encode_eq_checked hi s
  rw [hexec, encodeCheck_of_range hrv hw hw' hh hh']
  exact ⟨u, checked_none i s u, hfault, hrun⟩

/-! The check of an emit command (60_exceptions.md R287, 45_declaration.md R245, R251). -/

theorem emitHCheck_sequenceViolation_iff (s : State) : s.emitHCheck = .sequenceViolation ↔ s.uv = false := by
  rcases emitHCheck_cases s with h | h <;> simp [h]

theorem emitACheck_sequenceViolation_iff (s : State) :
    s.emitACheck = .sequenceViolation ↔ s.uv = false ∨ s.ukind ≠ .pages := by
  rcases emitACheck_cases s with h | h <;> simp [h]

theorem exec_emitH_of_no_units {s : State} (huv : s.uv = false) :
    exec .emitH s = .next (s.raise .sequenceViolation (encode .emitH)) := by
  have hexec : exec .emitH s = execEmitH s := rfl
  rw [hexec, execEmitH, (emitHCheck_sequenceViolation_iff s).2 huv]
  rfl

theorem exec_emitA_of_no_pages {s : State} (hno : s.uv = false ∨ s.ukind ≠ .pages) :
    exec .emitA s = .next (s.raise .sequenceViolation (encode .emitA)) := by
  have hexec : exec .emitA s = execEmitA s := rfl
  rw [hexec, execEmitA, (emitACheck_sequenceViolation_iff s).2 hno]
  rfl

/-- Settles O18: the failed check of each emit command, its word written out. -/
theorem emitFaults : Obligations.EmitFaults :=
  ⟨fun _ => exec_emitH_of_no_units, fun _ => exec_emitA_of_no_pages⟩

end Sys2Proof.Machine
end
